-- ==== Sys2Proof/Word.lean ====
section
/-! DEFINITION. The word types of the engine and the closed sets of names its rules use. -/

namespace Sys2Proof

/-- One byte: a data byte, the shared line group, one character of a bank file (R45, R52, R81). -/
abbrev Byte := BitVec 8

/-- A 16-bit address of the CPU's memory or I/O space (R15, R24). -/
abbrev Addr := BitVec 16

/-- An index into one bank or into the scratch buffer (R37, R77). -/
abbrev BankIndex := BitVec 15

/-- A bank number, 0 to 7 (R38). -/
abbrev BankNumber := BitVec 3

/-- The electrical level of a control line; `low` is level 0 (R14). -/
inductive Level where
  | low
  | high
deriving DecidableEq, Repr, Inhabited

/-- The four control lines of the CPU, by role (R14). -/
inductive CtlLine where
  | mreq
  | iorq
  | rd
  | wr
deriving DecidableEq, Repr, Inhabited

/-- The abstract state of the six mux control lines (R18). -/
inductive MuxState where
  | neutral
  | lowAddrIn
  | highAddrIn
  | dataIn
  | dataOut
deriving DecidableEq, Repr, Inhabited

/-- The six settle points (R93). -/
inductive SettlePoint where
  | ioLow
  | ioHigh
  | ioData
  | memLow
  | memHigh
  | memData
deriving DecidableEq, Repr, Inhabited

/-- The registers `SAMP` can write (R95). -/
inductive SampReg where
  | addrLo
  | addrHi
  | data
deriving DecidableEq, Repr, Inhabited

/-- A set of control lines, the operand of `TST` (R97). -/
structure LineSet where
  mreq : Bool
  iorq : Bool
  rd   : Bool
  wr   : Bool
deriving DecidableEq, Repr, Inhabited

/-- The state of the hex parser (R130). -/
inductive PState where
  | normal
  | inComment
  | inOrigin
deriving DecidableEq, Repr, Inhabited

/-- The character classes of the hex decoder (R81). -/
inductive CharClass where
  | lt
  | hash
  | org
  | sep
  | hex
  | bad
deriving DecidableEq, Repr, Inhabited

/-- A bank's "loaded program name": an opaque value with a distinguished empty one (R39). -/
inductive BankName where
  | empty
  | text (t : List Byte)
deriving DecidableEq, Repr, Inhabited

end Sys2Proof
end

