-- ==== Sys2Proof/Config.lean ====
section
/-! DEFINITION. The implementation parameters of R7 and the values the spec leaves free.

An `opaque` constant here is a value the spec calls arbitrary or open: nothing in Lean can
evaluate it, so a claim holds whatever it is. -/

namespace Sys2Proof.Config

/-- `NBANKS` (R7). -/
def nBanks : Nat := 8

/-- `BANK_SIZE`, also the size of the scratch buffer (R7). -/
def bankSize : Nat := 32768

/-- `CONSOLE_PORT` (R7, R78). -/
def consolePort : Addr := 0x0040

/-- `ORIGIN_BIAS` (R7, R139). -/
def originBias : Nat := 0x1800

/-- `BYTES_PER_LINE` (R7, R148). -/
def bytesPerLine : Nat := 16

/-- `LINE_BREAK`: LF (R7, R148; decision D23). -/
def lineBreak : Byte := 0x0A

/-- `IO_DIR_LINE`: the line the I/O handler re-samples (R7, R104; conflict C2). -/
def ioDirLine : CtlLine := .iorq

/-- `IO_DIR_WRITE_LEVEL`: the level that indicates a write (R7, R104; decision D4). -/
def ioDirWriteLevel : Level := .low

/-- `ACTIVE_LEVEL`: all four control lines are active low (R7, R14; decision D1). -/
def activeLevel (_ : CtlLine) : Level := .low

/-- `RESET_CUR_BANK` (R7, R38; decision D12). -/
def resetCurBank : BankNumber := 0

/-- `Draw(8)`: a byte under no law, fresh at each use; the argument is `book.draws` (R10, R96). -/
opaque draw8 : Nat → Byte

/-- `IRQ_ORDER = either`: at a dispatch with both latches set, whether the I/O handler goes first;
the argument is `book.draws` (R167). -/
opaque ioFirst : Nat → Bool

/-- `name[b]` after a load, which the spec leaves unspecified; the argument is `book.draws` (R151). -/
opaque loadedName : Nat → BankName

/-- `RESET_BANK_CONTENTS`: the byte at key `b * 32768 + i` until something writes it (R37, R43). -/
opaque resetBankByte : Nat → Byte

/-- The byte at a scratch-buffer index until something writes it: any value fixed at reset (R40, R43),
and any value again after each `DecodeError` (U11, D18); the first argument is `store.scratchFill`,
the second the index. -/
opaque freeScratchByte : Nat → Nat → Byte

/-- `SETTLE[k]`: the durations of the settle waits, which no rule reads (R93, R209). -/
opaque settleTime : SettlePoint → Nat

end Sys2Proof.Config
end

