-- ==== Sys2Proof/Syntax.lean ====
section
/-! DEFINITION. The operations of the engine (R67): one constructor for each row of
spec/opcode_table.json, in the table's order. -/

namespace Sys2Proof

/-- The closed set of operations (R67). Bits of a word that a row ignores (`x` in R75) are operands,
so that no bit of a word is lost. -/
inductive Instr where
  -- mux micro-operations (R90 to R97)
  | selpLowAddrIn
  | selpHighAddrIn
  | selpDataIn
  | selpDataOut
  | neut
  | settle (k : SettlePoint)
  | shin
  | shout (v : Byte)
  | samp (r : SampReg)
  | tst (l : LineSet)
  -- edge detector, dispatch and return (R163, R166, R170)
  | edgeIo (fallMreq : Bool)
  | edgeMem
  | dispatch
  | iret
  -- the handlers (R101, R109)
  | iocyc
  | memcyc
  -- outcomes of a handler run: the CYC words (R75)
  | memrd (w c : Bool)
  | memAbortRdInactive (w c : Bool)
  | memAbortMreqInactive (r w c : Bool)
  | iowrMem (m r : Bool)
  | iowrCon (m r : Bool)
  | ioNowr (m r c : Bool)
  -- bank store (R118 to R124)
  | bankRead (b : BankNumber) (a : Addr)
  | bankWrite (b : BankNumber) (a : Addr) (v : Byte)
  | read (bank : Byte) (addr : Addr)
  | write (bank : Byte) (addr : Addr) (v : Byte)
  | clear (bank : Byte)
  | curbank
  | setbank (n : Int)
  -- address remapper (R127)
  | remap (a : Addr)
  -- hex record codec (R131 to R149)
  | hexDecode (stream : List Byte)
  | chLtLf
  | chLtCr
  | chHash
  | chOrgAt
  | chOrgColon
  | chSepSpace
  | chSepTab
  | chHexNormalDigit (d : BitVec 4)
  | chHexNormalUpper (h : BitVec 3)
  | chHexNormalLower (h : BitVec 3)
  | chHexOriginDigit (d : BitVec 4)
  | chHexOriginUpper (h : BitVec 3)
  | chHexOriginLower (h : BitVec 3)
  | chBadNormal (c : Byte)
  | chBadOrigin (c : Byte)
  | chAnyComment (c : Byte)
  | hexEncode (buf : List Byte)
  -- save and load paths (R150, R151)
  | save
  | load (stream : List Byte)
  -- pause protocol (R153 to R158)
  | preq
  | pwait
  | prel
  | ipoll
  | iack
  | ispin
  | iresume
deriving DecidableEq, Repr

end Sys2Proof
end

