-- ==== Sys2Proof/Decode.lean ====
section
/-! DEFINITION. Reading and writing one line of a script (R86): which operation it names, and with
which operands. The bits of the words the hardware knows (`MUXCTL`, `TRIG`, `CYC`, `CHAR`) are placed
as R69 to R75 and R81 place them. An operation without a bit pattern is selected by name (R85); the
byte that stands for a name, and for the format of a word, is the model's own (DESIGN CHOICE, log 8). -/

namespace Sys2Proof

/-- Why a line names no operation. -/
inductive Reject where
  /-- the line is empty -/
  | empty
  /-- no format and no operation has this selector -/
  | unknownSelector (n : Nat)
  /-- one of the 59 illegal control words of R73 -/
  | illegalMuxctl (w : Nat)
  /-- `TRIG = 0b00`: no line fell, nothing happens (R70) -/
  | noEdge
  /-- a `TRIG` word above two bits -/
  | illegalTrig (w : Nat)
  /-- a `CYC` word above five bits -/
  | illegalCyc (w : Nat)
  /-- the operation has another number of operand bytes -/
  | operandCount
  /-- an operand byte outside its field's values -/
  | operandValue
deriving DecidableEq, Repr

/-- The answer of the decoder. -/
inductive Decoded where
  | ok (i : Instr)
  | reject (r : Reject)
deriving DecidableEq, Repr

/-! ### The mux control word (R71, R72) -/

/-- `CtlEncode`: bits 2 to 0 are `SEL`, bits 5 to 3 are `DIR` (R72). -/
def ctlEncode : MuxState → BitVec 6
  | .neutral => 0b111111
  | .lowAddrIn => 0b110110
  | .highAddrIn => 0b101101
  | .dataIn => 0b011011
  | .dataOut => 0b111011

/-- `SEL[2:0]` of a control word (R71). -/
def ctlSel (w : BitVec 6) : BitVec 3 := w.extractLsb' 0 3

/-- `DIR[2:0]` of a control word (R71). -/
def ctlDir (w : BitVec 6) : BitVec 3 := w.extractLsb' 3 3

/-- The operation whose control word this is; the other 59 values are illegal (R73, R90, R91). -/
def decodeMuxctl (w : Nat) : Decoded :=
  if w = 0x36 then .ok .selpLowAddrIn
  else if w = 0x2D then .ok .selpHighAddrIn
  else if w = 0x1B then .ok .selpDataIn
  else if w = 0x3B then .ok .selpDataOut
  else if w = 0x3F then .ok .neut
  else .reject (.illegalMuxctl w)

/-! ### The edge vector (R70) -/

/-- `TRIG[1:0] = fall(IORQ_n) || fall(MREQ_n)`; `0b11` performs both latches and is read as `EDGE_IO`
with its `fall_MREQ_n` bit set (R70). -/
def decodeTrig (w : Nat) : Decoded :=
  if w = 1 then .ok .edgeMem
  else if w = 2 then .ok (.edgeIo false)
  else if w = 3 then .ok (.edgeIo true)
  else if w = 0 then .reject .noEdge
  else .reject (.illegalTrig w)

/-! ### The cycle-classification word (R74, R75) -/

/-- `CYC[4:0] = T || M || R || W || C` in a byte (R74). -/
def cycWord (t m r w c : Bool) : Byte :=
  0#3 ++ BitVec.ofBool t ++ BitVec.ofBool m ++ BitVec.ofBool r ++ BitVec.ofBool w ++ BitVec.ofBool c

/-- The outcome map of R75. -/
def decodeCyc (b : Byte) : Decoded :=
  if 32 ≤ b.toNat then .reject (.illegalCyc b.toNat)
  else
    let t := b.getLsbD 4
    let m := b.getLsbD 3
    let r := b.getLsbD 2
    let w := b.getLsbD 1
    let c := b.getLsbD 0
    match t, m, r, w, c with
    | false, false, false, w, c => .ok (.memrd w c)
    | false, false, true, w, c => .ok (.memAbortRdInactive w c)
    | false, true, r, w, c => .ok (.memAbortMreqInactive r w c)
    | true, m, r, false, false => .ok (.iowrMem m r)
    | true, m, r, false, true => .ok (.iowrCon m r)
    | true, m, r, true, c => .ok (.ioNowr m r c)

/-! ### Characters (R81) -/

/-- The class of a character code (R81). -/
def charClass (c : Byte) : CharClass :=
  if c = 0x0A ∨ c = 0x0D then .lt
  else if c = 0x23 then .hash
  else if c = 0x40 ∨ c = 0x3A then .org
  else if c = 0x20 ∨ c = 0x09 then .sep
  else if (0x30 ≤ c.toNat ∧ c.toNat ≤ 0x39) ∨ (0x41 ≤ c.toNat ∧ c.toNat ≤ 0x46)
      ∨ (0x61 ≤ c.toNat ∧ c.toNat ≤ 0x66) then .hex
  else .bad

/-- A decimal digit field holds 0 to 9 (the `CH_HEX.*.digit` rows). -/
def digitOk (d : BitVec 4) : Bool := decide (d.toNat ≤ 9)

/-- A letter field holds 1 to 6, for `A` to `F` (the `CH_HEX.*.upper` and `.lower` rows). -/
def letterOk (h : BitVec 3) : Bool := decide (1 ≤ h.toNat ∧ h.toNat ≤ 6)

/-- `TST` names at least one line (R97). -/
def LineSet.nonempty (l : LineSet) : Bool := l.mreq || l.iorq || l.rd || l.wr

/-- The row of a hex digit in `Normal` state: `0011dddd`, `01000hhh` or `01100hhh` (R136). -/
def decodeHexNormal (c : Byte) : Instr :=
  if c.toNat ≤ 0x39 then .chHexNormalDigit (c.setWidth 4)
  else if c.toNat ≤ 0x46 then .chHexNormalUpper (c.setWidth 3)
  else .chHexNormalLower (c.setWidth 3)

/-- The row of a hex digit in `InOrigin` state (R138). -/
def decodeHexOrigin (c : Byte) : Instr :=
  if c.toNat ≤ 0x39 then .chHexOriginDigit (c.setWidth 4)
  else if c.toNat ≤ 0x46 then .chHexOriginUpper (c.setWidth 3)
  else .chHexOriginLower (c.setWidth 3)

/-- The action of a character in a parser state: the line terminator first, then the comment state,
then the classes in the order of R131. Every code is some row in every state. -/
def decodeChar (p : PState) (c : Byte) : Instr :=
  match charClass c, p with
  | .lt, _ => if c = 0x0A then .chLtLf else .chLtCr
  | _, .inComment => .chAnyComment c
  | .hash, _ => .chHash
  | .org, _ => if c = 0x40 then .chOrgAt else .chOrgColon
  | .sep, _ => if c = 0x20 then .chSepSpace else .chSepTab
  | .hex, .normal => decodeHexNormal c
  | .hex, .inOrigin => decodeHexOrigin c
  | .bad, .normal => .chBadNormal c
  | .bad, .inOrigin => .chBadOrigin c

/-! ### Operands of operations selected by name (R85) -/

/-- The settle point with this number, in the order of R93. -/
def decodeSettle (k : Nat) : Decoded :=
  match k with
  | 0 => .ok (.settle .ioLow)
  | 1 => .ok (.settle .ioHigh)
  | 2 => .ok (.settle .ioData)
  | 3 => .ok (.settle .memLow)
  | 4 => .ok (.settle .memHigh)
  | 5 => .ok (.settle .memData)
  | _ => .reject .operandValue

/-- The register with this number, in the order of R95. -/
def decodeSamp (r : Nat) : Decoded :=
  match r with
  | 0 => .ok (.samp .addrLo)
  | 1 => .ok (.samp .addrHi)
  | 2 => .ok (.samp .data)
  | _ => .reject .operandValue

/-- The line set whose bits stand where `CTLIN` has the lines (R69). -/
def decodeLines (m : Byte) : LineSet :=
  { mreq := m.getLsbD 0, iorq := m.getLsbD 1, rd := m.getLsbD 2, wr := m.getLsbD 3 }

/-- The `TST` of a line mask. -/
def decodeTst (m : Byte) : Decoded :=
  if 16 ≤ m.toNat ∨ m = 0 then .reject .operandValue else .ok (.tst (decodeLines m))

/-- A 16-bit operand, low byte first (R51's order). -/
def addrOf (lo hi : Byte) : Addr := hi ++ lo

/-- The natural number with these base-256 digits, least significant first. -/
def natOfBytes : List Byte → Nat
  | [] => 0
  | b :: bs => b.toNat + 256 * natOfBytes bs

/-- The base-256 digits of `n`, least significant first, none above the last non-zero one; the first
argument bounds the recursion. -/
def natBytesAux : Nat → Nat → List Byte
  | 0, _ => []
  | f + 1, n => if n = 0 then [] else BitVec.ofNat 8 n :: natBytesAux f (n / 256)

/-- The base-256 digits of `n`, least significant first. -/
def natBytes (n : Nat) : List Byte := natBytesAux n n

/-- `SETBANK`'s argument: a sign byte, then the magnitude's digits, in one spelling only. -/
def decodeSetbank : List Byte → Decoded
  | [] => .reject .operandCount
  | sign :: mag =>
    let m := natOfBytes mag
    if natBytes m ≠ mag then .reject .operandValue
    else if sign = 0 then .ok (.setbank (Int.ofNat m))
    else if sign = 1 ∧ m ≠ 0 then .ok (.setbank (-Int.ofNat m))
    else .reject .operandValue

/-- `ENCODE`'s buffer: exactly one bank's size of bytes (R147). -/
def decodeEncode (buf : List Byte) : Decoded :=
  if buf.length = Config.bankSize then .ok (.hexEncode buf) else .reject .operandCount

/-- An operation without operands. -/
def decodePlain (i : Instr) : List Byte → Decoded
  | [] => .ok i
  | _ :: _ => .reject .operandCount

/-- An operation with one operand byte. -/
def decodeByte (f : Byte → Decoded) : List Byte → Decoded
  | [b] => f b
  | _ => .reject .operandCount

/-- A bank number byte of the internal accessors, 0 to 7 (R118, R119). -/
def decodeBankNumber (b : Byte) (f : BankNumber → Instr) : Decoded :=
  if b.toNat < Config.nBanks then .ok (f (b.setWidth 3)) else .reject .operandValue

/-- `BankRead(b, a)`'s operand bytes. -/
def decodeBankRead : List Byte → Decoded
  | [b, lo, hi] => decodeBankNumber b fun n => .bankRead n (addrOf lo hi)
  | _ => .reject .operandCount

/-- `BankWrite(b, a, v)`'s operand bytes. -/
def decodeBankWrite : List Byte → Decoded
  | [b, lo, hi, v] => decodeBankNumber b fun n => .bankWrite n (addrOf lo hi) v
  | _ => .reject .operandCount

/-- `read(bank, addr)`'s operand bytes. -/
def decodeRead : List Byte → Decoded
  | [b, lo, hi] => .ok (.read b (addrOf lo hi))
  | _ => .reject .operandCount

/-- `write(bank, addr, byte)`'s operand bytes. -/
def decodeWrite : List Byte → Decoded
  | [b, lo, hi, v] => .ok (.write b (addrOf lo hi) v)
  | _ => .reject .operandCount

/-- `remap(logical_addr)`'s operand bytes. -/
def decodeRemap : List Byte → Decoded
  | [lo, hi] => .ok (.remap (addrOf lo hi))
  | _ => .reject .operandCount

/-- The line with this selector and these bytes after it. -/
def decodeOp (p : PState) (sel : Nat) (args : List Byte) : Decoded :=
  match sel with
  -- words of the hardware's own formats
  | 0x01 => decodeByte (fun w => decodeMuxctl w.toNat) args
  | 0x02 => decodeByte (fun w => decodeTrig w.toNat) args
  | 0x03 => decodeByte decodeCyc args
  | 0x04 => decodeByte (fun c => .ok (decodeChar p c)) args
  -- micro-operations selected by name
  | 0x10 => decodeByte (fun k => decodeSettle k.toNat) args
  | 0x11 => decodePlain .shin args
  | 0x12 => decodeByte (fun v => .ok (.shout v)) args
  | 0x13 => decodeByte (fun r => decodeSamp r.toNat) args
  | 0x14 => decodeByte decodeTst args
  | 0x15 => decodePlain .dispatch args
  | 0x16 => decodePlain .iret args
  -- handlers
  | 0x20 => decodePlain .iocyc args
  | 0x21 => decodePlain .memcyc args
  -- calls
  | 0x30 => decodeBankRead args
  | 0x31 => decodeBankWrite args
  | 0x32 => decodeRead args
  | 0x33 => decodeWrite args
  | 0x34 => decodeByte (fun b => .ok (.clear b)) args
  | 0x35 => decodePlain .curbank args
  | 0x36 => decodeSetbank args
  | 0x37 => decodeRemap args
  | 0x38 => .ok (.hexDecode args)
  | 0x39 => decodeEncode args
  | 0x3A => decodePlain .save args
  | 0x3B => .ok (.load args)
  -- pause protocol
  | 0x40 => decodePlain .preq args
  | 0x41 => decodePlain .pwait args
  | 0x42 => decodePlain .prel args
  | 0x48 => decodePlain .ipoll args
  | 0x49 => decodePlain .iack args
  | 0x4A => decodePlain .ispin args
  | 0x4B => decodePlain .iresume args
  | n => .reject (.unknownSelector n)

/-- The operation a line names, a character being read in parser state `p` (R131). -/
def decode (p : PState) : List Byte → Decoded
  | [] => .reject .empty
  | sel :: args => decodeOp p sel.toNat args

/-! ### The encoder -/

/-- The number of a settle point, in the order of R93. -/
def encodeSettle : SettlePoint → Byte
  | .ioLow => 0
  | .ioHigh => 1
  | .ioData => 2
  | .memLow => 3
  | .memHigh => 4
  | .memData => 5

/-- The number of a sampled register, in the order of R95. -/
def encodeSamp : SampReg → Byte
  | .addrLo => 0
  | .addrHi => 1
  | .data => 2

/-- The mask of a line set, at `CTLIN`'s bit positions (R69). -/
def encodeLines (l : LineSet) : Byte :=
  0#4 ++ BitVec.ofBool l.wr ++ BitVec.ofBool l.rd ++ BitVec.ofBool l.iorq ++ BitVec.ofBool l.mreq

/-- The low byte of a 16-bit operand. -/
def lowByte (a : Addr) : Byte := a.extractLsb' 0 8

/-- The high byte of a 16-bit operand. -/
def highByte (a : Addr) : Byte := a.extractLsb' 8 8

/-- A control word in a byte. -/
def muxByte (p : MuxState) : Byte := (ctlEncode p).setWidth 8

/-- A decimal digit character, `0011dddd` (R81). -/
def digitChar (d : BitVec 4) : Byte := 0b0011#4 ++ d

/-- An upper-case hex letter, `01000hhh` (R81). -/
def upperChar (h : BitVec 3) : Byte := 0b01000#5 ++ h

/-- A lower-case hex letter, `01100hhh` (R81). -/
def lowerChar (h : BitVec 3) : Byte := 0b01100#5 ++ h

/-- `SETBANK`'s operand bytes. -/
def encodeSetbank (n : Int) : List Byte :=
  (if n < 0 then 1 else 0) :: natBytes n.natAbs

/-- The line that names an operation. -/
def encode : Instr → List Byte
  | .selpLowAddrIn => [0x01, muxByte .lowAddrIn]
  | .selpHighAddrIn => [0x01, muxByte .highAddrIn]
  | .selpDataIn => [0x01, muxByte .dataIn]
  | .selpDataOut => [0x01, muxByte .dataOut]
  | .neut => [0x01, muxByte .neutral]
  | .settle k => [0x10, encodeSettle k]
  | .shin => [0x11]
  | .shout v => [0x12, v]
  | .samp r => [0x13, encodeSamp r]
  | .tst l => [0x14, encodeLines l]
  | .edgeIo m => [0x02, if m then 3 else 2]
  | .edgeMem => [0x02, 1]
  | .dispatch => [0x15]
  | .iret => [0x16]
  | .iocyc => [0x20]
  | .memcyc => [0x21]
  | .memrd w c => [0x03, cycWord false false false w c]
  | .memAbortRdInactive w c => [0x03, cycWord false false true w c]
  | .memAbortMreqInactive r w c => [0x03, cycWord false true r w c]
  | .iowrMem m r => [0x03, cycWord true m r false false]
  | .iowrCon m r => [0x03, cycWord true m r false true]
  | .ioNowr m r c => [0x03, cycWord true m r true c]
  | .bankRead b a => [0x30, b.setWidth 8, lowByte a, highByte a]
  | .bankWrite b a v => [0x31, b.setWidth 8, lowByte a, highByte a, v]
  | .read b a => [0x32, b, lowByte a, highByte a]
  | .write b a v => [0x33, b, lowByte a, highByte a, v]
  | .clear b => [0x34, b]
  | .curbank => [0x35]
  | .setbank n => 0x36 :: encodeSetbank n
  | .remap a => [0x37, lowByte a, highByte a]
  | .hexDecode stream => 0x38 :: stream
  | .chLtLf => [0x04, 0x0A]
  | .chLtCr => [0x04, 0x0D]
  | .chHash => [0x04, 0x23]
  | .chOrgAt => [0x04, 0x40]
  | .chOrgColon => [0x04, 0x3A]
  | .chSepSpace => [0x04, 0x20]
  | .chSepTab => [0x04, 0x09]
  | .chHexNormalDigit d => [0x04, digitChar d]
  | .chHexNormalUpper h => [0x04, upperChar h]
  | .chHexNormalLower h => [0x04, lowerChar h]
  | .chHexOriginDigit d => [0x04, digitChar d]
  | .chHexOriginUpper h => [0x04, upperChar h]
  | .chHexOriginLower h => [0x04, lowerChar h]
  | .chBadNormal c => [0x04, c]
  | .chBadOrigin c => [0x04, c]
  | .chAnyComment c => [0x04, c]
  | .hexEncode buf => 0x39 :: buf
  | .save => [0x3A]
  | .load stream => 0x3B :: stream
  | .preq => [0x40]
  | .pwait => [0x41]
  | .prel => [0x42]
  | .ipoll => [0x48]
  | .iack => [0x49]
  | .ispin => [0x4A]
  | .iresume => [0x4B]

/-- The parser states in which an operation's line is read back as that operation: every state but
for the character rows, whose state is part of the row (R131 to R142). -/
def readIn (p : PState) : Instr → Bool
  | .chHash | .chOrgAt | .chOrgColon | .chSepSpace | .chSepTab => p != .inComment
  | .chHexNormalDigit _ | .chHexNormalUpper _ | .chHexNormalLower _ | .chBadNormal _ => p == .normal
  | .chHexOriginDigit _ | .chHexOriginUpper _ | .chHexOriginLower _ | .chBadOrigin _ =>
    p == .inOrigin
  | .chAnyComment _ => p == .inComment
  | .selpLowAddrIn | .selpHighAddrIn | .selpDataIn | .selpDataOut | .neut | .settle _ | .shin
  | .shout _ | .samp _ | .tst _ | .edgeIo _ | .edgeMem | .dispatch | .iret | .iocyc | .memcyc
  | .memrd _ _ | .memAbortRdInactive _ _ | .memAbortMreqInactive _ _ _ | .iowrMem _ _
  | .iowrCon _ _ | .ioNowr _ _ _ | .bankRead _ _ | .bankWrite _ _ _ | .read _ _ | .write _ _ _
  | .clear _ | .curbank | .setbank _ | .remap _ | .hexDecode _ | .chLtLf | .chLtCr | .hexEncode _
  | .save | .load _ | .preq | .pwait | .prel | .ipoll | .iack | .ispin | .iresume => true

/-! ### Words numbered as spec/opcode_table.json numbers them -/

/-- The line of a table word. A row of width 0 has no bit pattern and no line. Widths 6, 5 and 2 are
`MUXCTL`, `CYC` and `TRIG`. In a whole byte the wires cannot be told apart, and the word is read as
a legal control word, else an edge vector, else a named character code, else a `CYC` word, else a
character (DESIGN CHOICE, log 8). -/
def tableLine (nbits w : Nat) : Option (List Byte) :=
  if nbits = 0 ∨ 256 ≤ w then none
  else
    let b := BitVec.ofNat 8 w
    if nbits = 6 then some [0x01, b]
    else if nbits = 5 then some [0x03, b]
    else if nbits = 2 then some [0x02, b]
    else if w = 0x36 ∨ w = 0x2D ∨ w = 0x1B ∨ w = 0x3B ∨ w = 0x3F then some [0x01, b]
    else if w = 1 ∨ w = 2 then some [0x02, b]
    else if w = 0x09 ∨ w = 0x0A ∨ w = 0x0D ∨ 32 ≤ w then some [0x04, b]
    else some [0x03, b]

/-- The operation the decoder reads from a table word, characters being read in `Normal` state, the
decoder's initial one (R130). -/
def decodeTableWord (nbits w : Nat) : Option Instr :=
  match tableLine nbits w with
  | none => none
  | some line =>
    match decode .normal line with
    | .ok i => some i
    | .reject _ => none

end Sys2Proof
end

