-- ==== Sys2Proof/Machine/State.lean ====
section
/-! DEFINITION. Everything the spec gives the machine, as plain data, in the groups of R13; the state
after reset (R43); why a step can stop. -/

namespace Sys2Proof.Machine

/-- The two interrupt sources, and the handlers they start (R162). -/
inductive Source where
  | io
  | mem
deriving DecidableEq, Repr, Inhabited

/-- The pin mode of the eight shared lines as a group (R19). -/
inductive PinMode where
  | input
  | output
deriving DecidableEq, Repr, Inhabited

/-- The cycle kind of the BusTransaction (R26). -/
inductive CycleKind where
  | ioCycle
  | memRead
  | memUnserviced
deriving DecidableEq, Repr, Inhabited

/-- The step labels of the I/O-cycle handler (R28). -/
inductive IoLabel where
  | io0
  | io1a
  | io1b
  | io1c
  | io1d
  | io2a
  | io2b
  | io2c
  | io3
  | io3a1
  | io3a2
  | io3a3
  | io3bc
  | io4
deriving DecidableEq, Repr, Inhabited

/-- The step labels of the memory-cycle handler (R28). -/
inductive MemLabel where
  | m0
  | m1a
  | m1b
  | m1c
  | m1d
  | m1e
  | m2
  | m3a
  | m3b
  | m3c
  | m3d
  | m4
  | m5a
  | m5b
  | m5c
  | m5d
deriving DecidableEq, Repr, Inhabited

/-- The pair (`handler`, `seq`) of R28: no handler, or a handler at one of its own labels. `seq` is
meaningless without a handler, so it has no value there. -/
inductive Sequencer where
  | idle
  | io (l : IoLabel)
  | mem (l : MemLabel)
deriving DecidableEq, Repr, Inhabited

/-- The operation BUSIDLE performs next (R156 to R158). -/
inductive IdleLabel where
  | ipoll
  | iack
  | ispin
  | iresume
deriving DecidableEq, Repr, Inhabited

/-- Where the UI context stands (R154, R214): between two operations, waiting at `PWAIT`, or inside an
operation that takes one byte or one character a step (R56, R62). -/
inductive UiActivity where
  | between
  | waitingAck
  /-- `clear(b)`, byte `i` next -/
  | clearing (b : BankNumber) (i : Nat)
  /-- `decode`, the characters still to read -/
  | decoding (rest : List Byte)
  /-- the decode of a `load`, the characters still to read and how many FILE has given -/
  | reading (rest : List Byte) (n : Nat)
  /-- the copy of a `load` into bank `b`, byte `i` next -/
  | loading (b : BankNumber) (i : Nat)
  /-- the fill of the scratch buffer by a `save` of bank `b`, byte `i` next -/
  | saving (b : BankNumber) (i : Nat)
  /-- the encoding of a `save`, byte `i` next, after the text of the bytes before it -/
  | encoding (i : Nat) (text : List Byte)
deriving DecidableEq, Repr, Inhabited

/-- How a decode stands: going on, or ended by `DecodeError(line)` (R146). -/
inductive DecodeStatus where
  | running
  | failed (line : Nat)
deriving DecidableEq, Repr, Inhabited

/-- What a call handed back to its caller (R97, R118, R120, R123, R127, R175). -/
inductive RetVal where
  | nothing
  | byte (v : Byte)
  | bank (b : BankNumber)
  | address (p : BankIndex)
  | levels (l : List (CtlLine × Level))
  | success
  | decodeError (line : Nat)
  | storageError
deriving DecidableEq, Repr, Inhabited

/-- The events of the history (R41). -/
inductive Event where
  | edge (src : Source)
  | enter (h : Source)
  | exit (h : Source)
  | sample (phase : MuxState) (v : Byte)
  | test (l : CtlLine) (v : Level)
  | abort (addrLo : Byte)
  | noWrite
  | bankWrite (b : BankNumber) (idx : BankIndex) (v : Byte)
  | bankRead (b : BankNumber) (idx : BankIndex) (v : Byte)
  | console (v : Byte)
  | drive (ea : Addr) (v : Byte)
  | release
  | contention
  | host (op : Instr)
  | decodeError (line : Nat)
deriving DecidableEq, Repr

/-- The agents that take steps of their own (R11). -/
inductive Agent where
  | irq
  | busIdle
  | ui
deriving DecidableEq, Repr, Inhabited

/-- What one ENV step sets: any subset of its lines and buses (R86, R212). -/
structure EnvChange where
  mreqN   : Option Level := none
  iorqN   : Option Level := none
  rdN     : Option Level := none
  wrN     : Option Level := none
  a       : Option Addr := none
  dcpu    : Option Byte := none
  dcpuDrv : Option Bool := none
deriving DecidableEq, Repr, Inhabited

/-- One turn of the schedule, in the manner of R86's script lines (log 7). -/
inductive Turn where
  /-- ENV sets lines and buses -/
  | env (c : EnvChange)
  /-- the CPU samples its data bus (R98) -/
  | cpuSample
  /-- the storage collaborator begins to fail after `k` characters, or ceases to fail (R175) -/
  | storage (k : Option Nat)
  /-- an agent takes the step that stands next in its own control state -/
  | agent (a : Agent)
  /-- an operation is performed, named by the bytes of a script line -/
  | line (bytes : List Byte)
deriving DecidableEq, Repr

/-- Bytes by key, keys strictly rising; an unlisted key holds no written value (log 3). -/
abbrev Memory := List Host.Cell

/-- The environment inputs (R14, R15). -/
structure EnvInputs where
  mreqN   : Level
  iorqN   : Level
  rdN     : Level
  wrN     : Level
  a       : Addr
  dcpu    : Byte
  dcpuDrv : Bool
deriving DecidableEq, Repr

/-- The mux arbiter's outputs (R16 to R21). `SEL` and `DIR` are views of `mux`. -/
structure MuxArbiter where
  mux     : MuxState
  shMode  : PinMode
  shOut   : Byte
  settled : Bool
deriving DecidableEq, Repr

/-- The scratch registers (R22 to R26). -/
structure ScratchRegs where
  addrLo : Byte
  addrHi : Byte
  ea     : Addr
  data   : Byte
  kind   : CycleKind
deriving DecidableEq, Repr

/-- The edge detector (R31, R32). -/
structure EdgeDetector where
  pendIo   : Bool
  pendMem  : Bool
  prevIorq : Level
  prevMreq : Level
deriving DecidableEq, Repr

/-- The bank store (R37 to R40); byte `i` of bank `b` has key `b * 32768 + i`. `scratchFill` is the
model's own: which arbitrary contents the scratch bytes that `scratch` does not list have (log 3). -/
structure BankStore where
  bank    : Memory
  curBank : BankNumber
  name    : Vector BankName 8
  scratch : Memory
  scratchFill : Nat
deriving DecidableEq, Repr

/-- The pause flags (R34, R35). -/
structure PauseFlags where
  req : Bool
  ack : Bool
deriving DecidableEq, Repr

/-- The variables of the hex decoder (R130); its destination buffer is the scratch buffer (R151). -/
structure Decoder where
  pstate  : PState
  cursor  : Nat
  nib     : Option (BitVec 4)
  oacc    : BitVec 16
  ocnt    : Nat
  line    : Nat
  written : List Nat
  status  : DecodeStatus
deriving DecidableEq, Repr

/-- The host side: what the UI context is doing, the decoder, what was handed back, and the file
collaborator (R130, R173, R178). -/
structure HostSide where
  activity : UiActivity
  dec      : Decoder
  ret      : RetVal
  fileOut  : List Byte
  storage  : Option Nat
deriving DecidableEq, Repr

/-- The model's bookkeeping: the event history (R41), the counter of free values (R10), the byte the
CPU took at its last sampling instant (R98), and the turns still to come (R86). -/
structure Book where
  hist     : List Event
  draws    : Nat
  cpuLatch : Byte
  script   : List Turn
deriving DecidableEq, Repr

/-- The whole machine (R13). -/
structure State where
  env       : EnvInputs
  arb       : MuxArbiter
  regs      : ScratchRegs
  sequencer : Sequencer
  edge      : EdgeDetector
  store     : BankStore
  pause     : PauseFlags
  idle      : IdleLabel
  host      : HostSide
  book      : Book
deriving DecidableEq, Repr

/-- Why the model itself is at fault. The hardware has no fault of its own (R174). -/
inductive Fault where
  /-- Raised by `step` on a script line that presents one of the 59 control words the engine never
  produces (R73: "should treat an illegal word as a fault of the model"). Safe: no such step exists. -/
  | illegalControlWord (w : Nat)
deriving DecidableEq, Repr

/-- What the spec gives no meaning. -/
inductive Refusal where
  /-- Raised by `exec` for an operation that has no meaning yet. Safe. -/
  | notModelled (mnemonic : String)
  /-- Raised by `step` on a script line that names no operation. Safe: the spec's list of operations
  is closed (R67). -/
  | noSuchOperation
  /-- Raised by `READ`, `WRITE`, `CLEAR` with a bank argument above 7 (R125). Safe. -/
  | bankOutOfRange
  /-- Raised by `SETBANK` with a negative argument (R124). Safe. -/
  | negativeBank
  /-- Raised by `REMAP` with an argument above 32767 (R127). Safe. -/
  | remapOutOfRange
  /-- Raised by the decoder on split digit pairs and split origin digits (R143, R144). Safe. -/
  | splitUnit
  /-- Raised by `PREQ` while a request is outstanding (R153). Safe. -/
  | requestOutstanding
  /-- Raised by `ENCODE` of a buffer that is not 32768 bytes (R147), which no line decodes to. Safe. -/
  | bufferSize
deriving DecidableEq, Repr

/-- The decoder's initial variables (R130). -/
def Decoder.initial : Decoder :=
  { pstate := .normal, cursor := 0, nib := none, oacc := 0, ocnt := 0, line := 1, written := [],
    status := .running }

/-- The state after reset (R43, R187). Values the spec leaves unspecified are the model's choice
(logs 1, 2, 4, 7, 17 to 19, 22, 23, 27). -/
def State.reset : State :=
  { env := { mreqN := .high, iorqN := .high, rdN := .high, wrN := .high, a := 0, dcpu := 0,
             dcpuDrv := false }
    arb := { mux := .neutral, shMode := .input, shOut := 0, settled := false }
    regs := { addrLo := 0, addrHi := 0, ea := 0, data := 0, kind := .memUnserviced }
    sequencer := .idle
    edge := { pendIo := false, pendMem := false, prevIorq := .high, prevMreq := .high }
    store := { bank := [], curBank := Config.resetCurBank, name := Vector.replicate 8 .empty,
               scratch := [], scratchFill := 0 }
    pause := { req := false, ack := false }
    idle := .ipoll
    host := { activity := .between, dec := Decoder.initial, ret := .nothing, fileOut := [],
              storage := none }
    book := { hist := [], draws := 0, cpuLatch := 0, script := [] } }

end Sys2Proof.Machine
end

