-- ==== Sys2Proof/Machine/Ops.lean ====
section
/-! DEFINITION. The shared operations over memory, registers and bookkeeping, and the two that take
the place of an exception on this hardware: entering a handler and leaving it (R168, R170). -/

namespace Sys2Proof.Machine

/-- What a meaning answers. -/
abbrev Result := Host.Outcome State Fault Refusal

/-! ### Memory in canonical form -/

namespace Memory

/-- The byte written at a key, if any. -/
def lookup : Memory → Nat → Option Byte
  | [], _ => none
  | (k, v) :: m, a => if k = a then some v else lookup m a

/-- The memory with `v` at key `a`. -/
def store : Memory → Nat → Byte → Memory
  | [], a, v => [(a, v)]
  | (k, w) :: m, a, v =>
    if a < k then (a, v) :: (k, w) :: m
    else if a = k then (a, v) :: m
    else (k, w) :: store m a v

/-- Every key is at least `lo`, and the keys rise strictly. -/
def sortedFrom : Nat → Memory → Bool
  | _, [] => true
  | lo, (k, _) :: m => decide (lo ≤ k) && sortedFrom (k + 1) m

/-- The canonical form: keys strictly rising. An unlisted key holds no written value, so that no
listed entry equals what an unlisted one reads as. -/
def wf (m : Memory) : Bool := sortedFrom 0 m

/-- Every key is below `n`. -/
def below (n : Nat) (m : Memory) : Bool := m.all fun c => decide (c.1 < n)

end Memory

/-! ### Bookkeeping -/

/-- `Emit(e)`: append an event to the history (R10, R41). -/
def emit (e : Event) (s : State) : State :=
  { s with book.hist := s.book.hist ++ [e] }

/-- `Draw(8)`: an arbitrary byte, fresh at each use (R10; log 5). -/
def draw8 (s : State) : Byte × State :=
  (Config.draw8 s.book.draws, { s with book.draws := s.book.draws + 1 })

/-- Hand a value back to the caller of an operation (log 17). -/
def giveBack (r : RetVal) (s : State) : State := { s with host.ret := r }

/-- Move the sequencer: this hardware's `pc <- target` (R10, R30). -/
def goto (q : Sequencer) (s : State) : State := { s with sequencer := q }

/-- Where the UI stands from now on. -/
def setActivity (u : UiActivity) (s : State) : State := { s with host.activity := u }

/-! ### The bank store and the scratch buffer -/

/-- The key of a bank byte (R48). -/
def bankKey (b : BankNumber) (i : BankIndex) : Nat := b.toNat * Config.bankSize + i.toNat

/-- `bank[b][i]`; a byte nothing has written holds the value fixed at reset (R37; log 3). -/
def bankByte (s : State) (b : BankNumber) (i : BankIndex) : Byte :=
  (s.store.bank.lookup (bankKey b i)).getD (Config.resetBankByte (bankKey b i))

/-- `bank[b][i] <- v`. -/
def setBankByte (b : BankNumber) (i : BankIndex) (v : Byte) (s : State) : State :=
  { s with store.bank := s.store.bank.store (bankKey b i) v }

/-- `scratch[i]`; a byte nothing has written holds an arbitrary value (R40; log 3). -/
def scratchByte (s : State) (i : Nat) : Byte :=
  (s.store.scratch.lookup i).getD (Config.freeScratchByte s.store.scratchFill i)

/-- `scratch[i] <- v`. -/
def setScratchByte (i : Nat) (v : Byte) (s : State) : State :=
  { s with store.scratch := s.store.scratch.store i v }

/-- From now on every scratch byte is any value (U11; log 3). -/
def forgetScratch (s : State) : State :=
  { s with store.scratch := [], store.scratchFill := s.store.scratchFill + 1 }

/-- `name[b] <- n` (R39). -/
def setName (b : BankNumber) (n : BankName) (s : State) : State :=
  { s with store.name := s.store.name.set b.toNat n b.isLt }

/-- The bank index of a 16-bit address: bit 15 is dropped (R59, R77). -/
def bankIdx (a : Addr) : BankIndex := a.setWidth 15

/-- `BankRead(b, a)`: no side effect (R118). -/
def bankRead (s : State) (b : BankNumber) (a : Addr) : Byte := bankByte s b (bankIdx a)

/-- `BankWrite(b, a, v)`: exactly one byte, and the event of R119. -/
def bankWrite (b : BankNumber) (a : Addr) (v : Byte) (s : State) : State :=
  emit (.bankWrite b (bankIdx a) v) (setBankByte b (bankIdx a) v s)

/-! ### Entering and leaving a handler -/

/-- Entry of a handler: the latch is cleared, the sequencer stands at the first label, nothing is
saved (R168; R101 for `kind`). -/
def enterHandler (h : Source) (s : State) : State :=
  match h with
  | .io =>
    emit (.enter .io)
      { s with edge.pendIo := false, sequencer := .io .io0, regs.kind := .ioCycle }
  | .mem =>
    emit (.enter .mem) { s with edge.pendMem := false, sequencer := .mem .m0 }

/-- `IRET`: no handler runs any more; nothing is restored (R170). Without a handler there is nothing
to leave. -/
def leaveHandler (s : State) : State :=
  match s.sequencer with
  | .idle => s
  | .io _ => emit (.exit .io) { s with sequencer := .idle }
  | .mem _ => emit (.exit .mem) { s with sequencer := .idle }

/-! ### The decode error -/

/-- `raise DecodeError(line)`: the decode ends with the current line's number, which is handed to the
caller (R146, R173), and the destination buffer is left with any value (U11, D18; log 19). A next
state: the machine goes on. -/
def raiseDecodeError (s : State) : State :=
  emit (.decodeError s.host.dec.line)
    (forgetScratch
      { s with host.dec.status := .failed s.host.dec.line
               host.ret := .decodeError s.host.dec.line })

/-! ### The UI context -/

/-- Begin a host operation: its event (R41). -/
def beginHost (op : Instr) (s : State) : State := emit (.host op) s

/-- A host operation of one step: performed when the UI is between operations, else the turn passes
without effect (R171, R178; log 12). -/
def whenFree (s : State) (act : State → Result) : Result :=
  match s.host.activity with
  | .between => act s
  | .waitingAck | .clearing _ _ | .decoding _ | .reading _ _ | .loading _ _ | .saving _ _
  | .encoding _ _ => .next s

/-- The bank a host names: 0 to 7, any other value is refused (R125). -/
def withBank (bank : Byte) (act : BankNumber → Result) : Result :=
  if bank.toNat < Config.nBanks then act (bank.setWidth 3) else .refused .bankOutOfRange

end Sys2Proof.Machine
end

