-- ==== Sys2Proof/Machine/Operands.lean ====
section
/-! DEFINITION. Where the engine's operands come from: control lines, shared lines, the assembled
address, hex digits, and the CPU's data bus as the multiplexer resolves it. -/

namespace Sys2Proof.Machine

/-- `Line(L)`: the present level of a control line (R10). -/
def lineLevel (s : State) : CtlLine → Level
  | .mreq => s.env.mreqN
  | .iorq => s.env.iorqN
  | .rd => s.env.rdN
  | .wr => s.env.wrN

/-- `Active(L)` (R10). -/
def lineActive (s : State) (l : CtlLine) : Bool := lineLevel s l == Config.activeLevel l

/-- Whether the re-sampled direction line indicates a write (R104; decision D4). -/
def writeIndicated (w : Level) : Bool := w == Config.ioDirWriteLevel

/-- The lines of a set, in `CTLIN`'s order (R69). -/
def linesOf (l : LineSet) : List CtlLine :=
  (if l.mreq then [.mreq] else []) ++ (if l.iorq then [.iorq] else []) ++
    (if l.rd then [.rd] else []) ++ (if l.wr then [.wr] else [])

/-- A level as a bit, 0 for `low` (R14). -/
def levelBit : Level → Bool
  | .low => false
  | .high => true

/-- `CTLIN[3:0] = WR_n || RD_n || IORQ_n || MREQ_n` (R69). -/
def ctlin (s : State) : BitVec 4 :=
  BitVec.ofBool (levelBit s.env.wrN) ++ BitVec.ofBool (levelBit s.env.rdN) ++
    BitVec.ofBool (levelBit s.env.iorqN) ++ BitVec.ofBool (levelBit s.env.mreqN)

/-- `SharedIn()`: what the engine reads from the shared lines (R96). With its own pins driving, its
own byte when the Data channel is routed outward, and any byte otherwise (decision D7; log 15). -/
def sharedIn (s : State) : Byte × State :=
  match s.arb.shMode, s.arb.mux with
  | .output, .dataOut => (s.arb.shOut, s)
  | .output, .neutral | .output, .lowAddrIn | .output, .highAddrIn | .output, .dataIn => draw8 s
  | .input, .lowAddrIn => (lowByte s.env.a, s)
  | .input, .highAddrIn => (highByte s.env.a, s)
  | .input, .dataIn => if s.env.dcpuDrv then (s.env.dcpu, s) else draw8 s
  | .input, .neutral | .input, .dataOut => draw8 s

/-- The value a `SAMP` takes: the shared lines once a settle has completed, else any byte (R95). -/
def sampled (s : State) : Byte × State :=
  if s.arb.settled then sharedIn s else draw8 s

/-- `ea = addr_hi || addr_lo` (R51, R76). -/
def effectiveAddress (lo hi : Byte) : Addr := hi ++ lo

/-- The console compare, on all 16 bits and before any reduction (R78). -/
def consoleHit (ea : Addr) : Bool := ea == Config.consolePort

/-- The address decoder: effective address, console hit, bank index (R117). -/
def addressDecode (lo hi : Byte) : Addr × Bool × BankIndex :=
  let ea := effectiveAddress lo hi
  (ea, consoleHit ea, bankIdx ea)

/-- `hexval` of a decimal digit's field (R79). -/
def digitValue (d : BitVec 4) : BitVec 4 := d

/-- `hexval` of a letter's field: 9 + h, for upper and lower case alike (R79). -/
def letterValue (h : BitVec 3) : BitVec 4 := 9 + h.setWidth 4

/-- `hexval` of a hex digit character (R79). -/
def hexval (c : Byte) : BitVec 4 :=
  if c.toNat ≤ 0x39 then digitValue (c.setWidth 4) else letterValue (c.setWidth 3)

/-- A data byte from its two digits, the more significant first (R79, R136). -/
def byteOfDigits (hi lo : BitVec 4) : Byte := hi ++ lo

/-- One more digit of an origin value: `16 * oacc + d` (R138). -/
def originDigit (oacc : BitVec 16) (d : BitVec 4) : BitVec 16 := 16 * oacc + d.setWidth 16

/-- Whether the engine drives the CPU's data bus (R98). -/
def engineDrives (s : State) : Bool := s.arb.mux == .dataOut && s.arb.shMode == .output

/-- What a reader of the CPU's data bus gets: the one driver's byte, else any byte (R98, R99). -/
def cpuBus (s : State) : Byte × State :=
  match engineDrives s, s.env.dcpuDrv with
  | true, false => (s.arb.shOut, s)
  | false, true => (s.env.dcpu, s)
  | true, true | false, false => draw8 s

end Sys2Proof.Machine
end

