-- ==== Sys2Proof/Machine/Flags.lean ====
section
/-! DEFINITION. The one-bit state: edge latches, pause flags, `settled`, contention; and the views
`fsm`, `busy`, PauseState and `CYC` that are functions of other state. -/

namespace Sys2Proof.Machine

/-! ### The edge detector -/

/-- `fall(L)`: the line went from 1 to 0 (R70). -/
def fell (prev now : Level) : Bool := prev == .high && now == .low

/-- The detector looks at `IORQ_n`: a fall sets `pend_io`, and the level is remembered (R163). -/
def observeIorq (s : State) : State :=
  let seen : State := { s with edge.prevIorq := s.env.iorqN }
  if fell s.edge.prevIorq s.env.iorqN then emit (.edge .io) { seen with edge.pendIo := true } else seen

/-- The detector looks at `MREQ_n`: a fall sets `pend_mem` (R163). -/
def observeMreq (s : State) : State :=
  let seen : State := { s with edge.prevMreq := s.env.mreqN }
  if fell s.edge.prevMreq s.env.mreqN then emit (.edge .mem) { seen with edge.pendMem := true } else seen

/-- `TRIG[1:0] = fall(IORQ_n) || fall(MREQ_n)` of what the detector has not yet seen (R70). -/
def trig (s : State) : BitVec 2 :=
  BitVec.ofBool (fell s.edge.prevIorq s.env.iorqN) ++ BitVec.ofBool (fell s.edge.prevMreq s.env.mreqN)

/-! ### Contention -/

/-- Two agents drive the CPU's data bus (R99). -/
def contended (s : State) : Bool := engineDrives s && s.env.dcpuDrv

/-- Record a contention that a step began (R99; log 14). -/
def noteContention (before after : State) : State :=
  if contended after && !contended before then emit .contention after else after

/-! ### Views -/

/-- The running handler (R28). -/
def handler : Sequencer → Option Source
  | .idle => none
  | .io _ => some .io
  | .mem _ => some .mem

/-- The source's four named states of the sequencer (R29). -/
inductive Fsm where
  | idle
  | awaitingLowAddress
  | awaitingHighAddress
  | awaitingData
deriving DecidableEq, Repr

/-- `fsm` (R29). -/
def fsm : Sequencer → Fsm
  | .idle => .idle
  | .io .io0 | .io .io1a | .io .io1b | .io .io1c | .io .io1d => .awaitingLowAddress
  | .io .io2a | .io .io2b | .io .io2c | .io .io3 => .awaitingHighAddress
  | .io .io3a1 | .io .io3a2 | .io .io3a3 | .io .io3bc | .io .io4 => .awaitingData
  | .mem .m0 | .mem .m1a | .mem .m1b | .mem .m1c | .mem .m1d | .mem .m1e | .mem .m2 =>
    .awaitingLowAddress
  | .mem .m3a | .mem .m3b | .mem .m3c | .mem .m3d | .mem .m4 => .awaitingHighAddress
  | .mem .m5a | .mem .m5b | .mem .m5c | .mem .m5d => .awaitingData

/-- `busy` (R33). -/
def busy (s : State) : Bool := s.sequencer != .idle

/-- PauseState as a view of the two flags, with the fourth value of conflict C7 (R36). -/
inductive PauseState where
  | idle
  | pauseRequested
  | paused
  | releasing
deriving DecidableEq, Repr

/-- The view of R36. -/
def pauseState (p : PauseFlags) : PauseState :=
  match p.req, p.ack with
  | false, false => .idle
  | true, false => .pauseRequested
  | true, true => .paused
  | false, true => .releasing

/-- The outcome of a memory-cycle run whose re-check at M2 shows these levels (R75, `T = 0`). -/
inductive MemOutcome where
  | memrd
  | abortRdInactive
  | abortMreqInactive
deriving DecidableEq, Repr

/-- The outcome of an I/O-cycle run (R75, `T = 1`). -/
inductive IoOutcome where
  | iowrMem
  | iowrCon
  | ioNowr
deriving DecidableEq, Repr

/-- The memory half of the outcome map: `M`, then `R` (R75). -/
def memOutcome (s : State) : MemOutcome :=
  if !lineActive s .mreq then .abortMreqInactive
  else if !lineActive s .rd then .abortRdInactive
  else .memrd

/-- The I/O half of the outcome map: `W`, then `C` (R75). -/
def ioOutcome (s : State) : IoOutcome :=
  if !writeIndicated (lineLevel s Config.ioDirLine) then .ioNowr
  else if consoleHit s.regs.ea then .iowrCon
  else .iowrMem

end Sys2Proof.Machine
end

