-- ==== Sys2Proof/Machine/BankStore.lean ====
section
/-! DEFINITION. The bank store and its host operations (R117 to R125). -/

namespace Sys2Proof.Machine

/-- One step of `clear(b)`: byte `i` in ascending order, then the name (R122; D17; log 18). It hands
nothing back to the caller (R85). -/
def clearStep (b : BankNumber) (i : Nat) (s : State) : State :=
  if i < Config.bankSize then
    setActivity (.clearing b (i + 1)) (setBankByte b (BitVec.ofNat 15 i) 0 s)
  else
    setActivity .between (setName b .empty s)

/-! ### The meanings -/

/-- `BankRead(b, a)`, the internal accessor (R118). The handlers use it at M4; that a line of the
script may perform it by itself, at any moment and for any bank, is the model's (log 35). -/
def execBankRead (b : BankNumber) (a : Addr) (s : State) : Result :=
  .next (giveBack (.byte (bankRead s b a)) s)

/-- `BankWrite(b, a, v)`, the internal accessor (R119). The handlers use it at IO3bc; that a line of
the script may perform it by itself, at any moment, for any bank and in no agent's program order, is
the model's (log 35). -/
def execBankWrite (b : BankNumber) (a : Addr) (v : Byte) (s : State) : Result :=
  .next (bankWrite b a v s)

/-- `read(bank, addr)` (R120, R125). -/
def execRead (bank : Byte) (addr : Addr) (s : State) : Result :=
  whenFree s fun s => withBank bank fun b =>
    .next (giveBack (.byte (bankRead s b addr)) (beginHost (.read bank addr) s))

/-- `write(bank, addr, byte)` (R121, R125). -/
def execWrite (bank : Byte) (addr : Addr) (v : Byte) (s : State) : Result :=
  whenFree s fun s => withBank bank fun b =>
    .next (bankWrite b addr v (beginHost (.write bank addr v) s))

/-- `clear(bank)`: begun when the UI is between operations, then one byte each time it is performed
again (R122, R125; log 18). -/
def execClear (bank : Byte) (s : State) : Result :=
  match s.host.activity with
  | .between => withBank bank fun b => .next (clearStep b 0 (beginHost (.clear bank) s))
  | .clearing b i => if b.setWidth 8 = bank then .next (clearStep b i s) else .next s
  | .waitingAck | .decoding _ | .reading _ _ | .loading _ _ | .saving _ _ | .encoding _ _ => .next s

/-- `current_bank()` (R123). -/
def execCurbank (s : State) : Result :=
  whenFree s fun s => .next (giveBack (.bank s.store.curBank) (beginHost .curbank s))

/-- `set_current_bank(n)`: `n mod 8`; a negative `n` is refused (R124). -/
def execSetbank (n : Int) (s : State) : Result :=
  whenFree s fun s =>
    if n < 0 then .refused .negativeBank
    else .next { beginHost (.setbank n) s with
                 store.curBank := BitVec.ofNat 3 (n.toNat % Config.nBanks) }

end Sys2Proof.Machine
end

