-- ==== Sys2Proof/Machine/Interrupt.lean ====
section
/-! DEFINITION. The interrupt mechanism: edge latches, dispatch and return (R162 to R172). -/

namespace Sys2Proof.Machine

/-- `DISPATCH`: enabled when no handler runs and a latch is set, whatever the PauseState (R166). With
both latches set the order is open: a free choice (R167; log 6). When it is not enabled the engine
waits for an edge (log 12). -/
def dispatch (s : State) : State :=
  match s.sequencer with
  | .io _ | .mem _ => s
  | .idle =>
    match s.edge.pendIo, s.edge.pendMem with
    | false, false => s
    | true, false => enterHandler .io s
    | false, true => enterHandler .mem s
    | true, true =>
      enterHandler (if Config.ioFirst s.book.draws then .io else .mem)
        { s with book.draws := s.book.draws + 1 }

/-- `EDGE_IO`: the detector latches a fall of `IORQ_n`; with the word's other bit set, one of
`MREQ_n` too (R70, R163; log 11). -/
def execEdgeIo (fallMreq : Bool) (s : State) : Result :=
  .next (observeIorq (if fallMreq then observeMreq s else s))

/-- `EDGE_MEM`: the detector latches a fall of `MREQ_n` (R163). -/
def execEdgeMem (s : State) : Result := .next (observeMreq s)

/-- `DISPATCH` (R166 to R168). -/
def execDispatch (s : State) : Result := .next (dispatch s)

/-- `IRET` (R170). -/
def execIret (s : State) : Result := .next (leaveHandler s)

end Sys2Proof.Machine
end

