-- ==== Sys2Proof/Machine/MuxArbiter.lean ====
section
/-! DEFINITION. The mux micro-operations (R90 to R97): the shared operations, then the meaning of
each row. They write what their rule says and leave the sequencer where it is; the handlers move it
(R30). -/

namespace Sys2Proof.Machine

/-- `SELP p`: all six lines take `CtlEncode(p)` in one step (R90). -/
def selectPhase (p : MuxState) (s : State) : State :=
  noteContention s { s with arb.mux := p, arb.settled := false }

/-- `NEUT`: all deselected, all directions high; a drive of the data bus ends here (R91). -/
def neutral (s : State) : State :=
  let t : State := { s with arb.mux := .neutral, arb.settled := false }
  if engineDrives s then emit .release t else t

/-- `SETTLE k`: the wait is over; no duration matters (R93). -/
def settleWait (_ : SettlePoint) (s : State) : State := { s with arb.settled := true }

/-- `SHIN`: the shared lines are released (R92). -/
def releaseLines (s : State) : State := { s with arb.shMode := .input }

/-- `SHOUT v`: the shared lines carry `v`; when the Data channel is routed outward this is where the
engine starts driving the CPU's data bus (R94; log 14). -/
def driveLines (v : Byte) (s : State) : State :=
  let t : State := { s with arb.shOut := v, arb.shMode := .output }
  noteContention s (if engineDrives t then emit (.drive s.regs.ea v) t else t)

/-- `SELP DataOut` with `SHOUT v` in one step, as M5a performs them (R94). -/
def driveData (v : Byte) (s : State) : State :=
  let t : State := { s with arb := { mux := .dataOut, settled := false, shOut := v, shMode := .output } }
  noteContention s (emit (.drive s.regs.ea v) t)

/-- The write of a sampled value: `ea` is formed in the step that samples the high byte (R95). -/
def writeSampled (r : SampReg) (v : Byte) (s : State) : State :=
  match r with
  | .addrLo => { s with regs.addrLo := v }
  | .addrHi => { s with regs.addrHi := v, regs.ea := effectiveAddress s.regs.addrLo v }
  | .data => { s with regs.data := v }

/-- `SAMP r` (R95). -/
def sample (r : SampReg) (s : State) : State :=
  let (v, t) := sampled s
  writeSampled r v (emit (.sample s.arb.mux v) t)

/-- The levels of some lines. -/
def levelsOf (s : State) (ls : List CtlLine) : List (CtlLine × Level) :=
  ls.map fun l => (l, lineLevel s l)

/-- One `Test` event for each line (R97). -/
def emitTests (ls : List CtlLine) (s : State) : State :=
  { s with book.hist := s.book.hist ++ (levelsOf s ls).map fun p => .test p.1 p.2 }

/-! ### The meanings -/

/-- `SELP LowAddrIn` (R90). -/
def execSelpLowAddrIn (s : State) : Result := .next (selectPhase .lowAddrIn s)

/-- `SELP HighAddrIn` (R90). -/
def execSelpHighAddrIn (s : State) : Result := .next (selectPhase .highAddrIn s)

/-- `SELP DataIn` (R90). -/
def execSelpDataIn (s : State) : Result := .next (selectPhase .dataIn s)

/-- `SELP DataOut` (R90); the handler performs it in one step with `SHOUT` (`driveData`). -/
def execSelpDataOut (s : State) : Result := .next (selectPhase .dataOut s)

/-- `NEUT` (R91). -/
def execNeut (s : State) : Result := .next (neutral s)

/-- `SETTLE k` (R93). -/
def execSettle (k : SettlePoint) (s : State) : Result := .next (settleWait k s)

/-- `SHIN` (R92). -/
def execShin (s : State) : Result := .next (releaseLines s)

/-- `SHOUT v` (R94). -/
def execShout (v : Byte) (s : State) : Result := .next (driveLines v s)

/-- `SAMP r` (R95). -/
def execSamp (r : SampReg) (s : State) : Result := .next (sample r s)

/-- `TST L`: the levels are the result (R97). -/
def execTst (l : LineSet) (s : State) : Result :=
  .next (giveBack (.levels (levelsOf s (linesOf l))) (emitTests (linesOf l) s))

end Sys2Proof.Machine
end

