-- ==== Sys2Proof/Machine/IoCycle.lean ====
section
/-! DEFINITION. The I/O-cycle handler (R101 to R108): its labels one by one, and the three outcomes of
a whole run. -/

namespace Sys2Proof.Machine

/-- The step at one label, with the move to the next (R30, R101 to R108). Entry has done the work of
IO0 (log 9). -/
def ioLabel (l : IoLabel) (s : State) : State :=
  match l with
  | .io0 => goto (.io .io1a) s
  | .io1a => goto (.io .io1b) (selectPhase .lowAddrIn s)
  | .io1b => goto (.io .io1c) (settleWait .ioLow s)
  | .io1c => goto (.io .io1d) (releaseLines s)
  | .io1d => goto (.io .io2a) (sample .addrLo s)
  | .io2a => goto (.io .io2b) (selectPhase .highAddrIn s)
  | .io2b => goto (.io .io2c) (settleWait .ioHigh s)
  | .io2c => goto (.io .io3) (sample .addrHi s)
  | .io3 =>
    let t := emitTests [Config.ioDirLine] s
    if writeIndicated (lineLevel s Config.ioDirLine) then goto (.io .io3a1) t
    else goto (.io .io4) (emit .noWrite t)
  | .io3a1 => goto (.io .io3a2) (selectPhase .dataIn s)
  | .io3a2 => goto (.io .io3a3) (settleWait .ioData s)
  | .io3a3 => goto (.io .io3bc) (sample .data s)
  | .io3bc =>
    goto (.io .io4)
      (if consoleHit s.regs.ea then emit (.console s.regs.data) s
       else bankWrite s.store.curBank s.regs.ea s.regs.data s)
  | .io4 => leaveHandler (neutral s)

/-- One step of a running I/O handler; nothing when it does not run. -/
def ioStep (s : State) : State :=
  match s.sequencer with
  | .io l => ioLabel l s
  | .idle | .mem _ => s

/-- `n` steps of the I/O handler with no other agent between them. -/
def ioSteps : Nat → State → State
  | 0, s => s
  | n + 1, s => ioSteps n (ioStep s)

/-- The handler from its entry to its direction test IO3, the lines being held (R102, R103). -/
def ioToTest (s : State) : State := ioSteps 8 (enterHandler .io s)

/-- The rest of the handler, IO3 to IO4, the lines being held. -/
def ioFinish (s : State) : State := ioSteps 6 s

/-- A whole run, from entry to `IRET`, with the cycle's lines held throughout (R86's well-timed run),
when a pending I/O edge can be served and the run is classified by `o` (R74, R75). Otherwise no such
run stands here and the turn passes without effect (logs 12, 13). -/
def ioRun (o : IoOutcome) (s : State) : State :=
  match s.sequencer with
  | .io _ | .mem _ => s
  | .idle =>
    if s.edge.pendIo && ioOutcome (ioToTest s) == o then ioFinish (ioToTest s) else s

/-! ### The meanings -/

/-- `IOCYC`: the next step of the I/O handler: its entry when no handler runs and its latch is set,
else the micro-operation at its label (R101 to R108). -/
def execIocyc (s : State) : Result :=
  match s.sequencer with
  | .io l => .next (ioLabel l s)
  | .idle => .next (if s.edge.pendIo then enterHandler .io s else s)
  | .mem _ => .next s

/-- `IOWR_MEM`: a run that stores the sampled byte in the bank (R107); `M`, `R` are ignored. -/
def execIowrMem (_m _r : Bool) (s : State) : Result := .next (ioRun .iowrMem s)

/-- `IOWR_CON`: a run that forwards the byte to the console (R106); `M`, `R` are ignored. -/
def execIowrCon (_m _r : Bool) (s : State) : Result := .next (ioRun .iowrCon s)

/-- `IO_NOWR`: a run in which no write is indicated (R104); `M`, `R`, `C` are ignored. -/
def execIoNowr (_m _r _c : Bool) (s : State) : Result := .next (ioRun .ioNowr s)

end Sys2Proof.Machine
end

