-- ==== Sys2Proof/Machine/MemoryCycle.lean ====
section
/-! DEFINITION. The memory-cycle handler (R109 to R116): its labels one by one, and the outcomes of a
whole run. -/

namespace Sys2Proof.Machine

/-- The step at one label, with the move to the next (R30, R109 to R115). Entry has done the work of
M0 (log 9). -/
def memLabel (l : MemLabel) (s : State) : State :=
  match l with
  | .m0 => goto (.mem .m1a) s
  | .m1a => goto (.mem .m1b) (selectPhase .lowAddrIn s)
  | .m1b => goto (.mem .m1c) (settleWait .memLow s)
  | .m1c => goto (.mem .m1d) (sample .addrLo s)
  | .m1d => goto (.mem .m1e) (neutral s)
  | .m1e => goto (.mem .m2) (releaseLines s)
  | .m2 =>
    let t := emitTests [.mreq, .rd] s
    if lineActive s .mreq && lineActive s .rd then
      goto (.mem .m3a) { t with regs.kind := .memRead }
    else
      leaveHandler (emit (.abort s.regs.addrLo) { t with regs.kind := .memUnserviced })
  | .m3a => goto (.mem .m3b) (selectPhase .highAddrIn s)
  | .m3b => goto (.mem .m3c) (settleWait .memHigh s)
  | .m3c => goto (.mem .m3d) (sample .addrHi s)
  | .m3d => goto (.mem .m4) (neutral s)
  | .m4 =>
    let v := bankRead s s.store.curBank s.regs.ea
    goto (.mem .m5a)
      (emit (.bankRead s.store.curBank (bankIdx s.regs.ea) v) { s with regs.data := v })
  | .m5a => goto (.mem .m5b) (driveData s.regs.data s)
  | .m5b => goto (.mem .m5c) (settleWait .memData s)
  | .m5c => goto (.mem .m5d) (neutral s)
  | .m5d => leaveHandler (releaseLines s)

/-- One step of a running memory handler; nothing when it does not run. -/
def memStep (s : State) : State :=
  match s.sequencer with
  | .mem l => memLabel l s
  | .idle | .io _ => s

/-- `n` steps of the memory handler with no other agent between them. -/
def memSteps : Nat → State → State
  | 0, s => s
  | n + 1, s => memSteps n (memStep s)

/-- The handler from its entry to its re-check M2, the lines being held (R110). -/
def memToCheck (s : State) : State := memSteps 6 (enterHandler .mem s)

/-- The rest of the handler, M2 to its exit, the lines being held. -/
def memFinish (s : State) : State := memSteps 10 s

/-- A whole run, from entry to `IRET`, with the cycle's lines held throughout (R86's well-timed run),
when a pending memory edge can be served and the run is classified by `o` (R74, R75). Otherwise no
such run stands here and the turn passes without effect (logs 12, 13). -/
def memRun (o : MemOutcome) (s : State) : State :=
  match s.sequencer with
  | .io _ | .mem _ => s
  | .idle =>
    if s.edge.pendMem && memOutcome (memToCheck s) == o then memFinish (memToCheck s) else s

/-! ### The meanings -/

/-- `MEMCYC`: the next step of the memory handler: its entry when no handler runs and its latch is
set, else the micro-operation at its label (R109 to R115). -/
def execMemcyc (s : State) : Result :=
  match s.sequencer with
  | .mem l => .next (memLabel l s)
  | .idle => .next (if s.edge.pendMem then enterHandler .mem s else s)
  | .io _ => .next s

/-- `MEMRD`: a run that reads the current bank and drives the byte (R113, R114); `W`, `C` ignored. -/
def execMemrd (_w _c : Bool) (s : State) : Result := .next (memRun .memrd s)

/-- `MEM_ABORT`, read strobe inactive at M2 (R111, R116); `W`, `C` ignored. -/
def execMemAbortRdInactive (_w _c : Bool) (s : State) : Result := .next (memRun .abortRdInactive s)

/-- `MEM_ABORT`, memory request inactive at M2 (R111); `R`, `W`, `C` ignored. -/
def execMemAbortMreqInactive (_r _w _c : Bool) (s : State) : Result :=
  .next (memRun .abortMreqInactive s)

end Sys2Proof.Machine
end

