-- ==== Sys2Proof/Machine/Pause.lean ====
section
/-! DEFINITION. The cross-core pause protocol (R153 to R161). UI's operations write `pause_req` and
read `pause_ack`; BUSIDLE's read `pause_req` and write `pause_ack`. -/

namespace Sys2Proof.Machine

/-- A step of BUSIDLE: taken when no handler runs and the idle loop stands at this operation, else the
turn passes without effect (R156, R171; log 12). -/
def idleRow (s : State) (l : IdleLabel) (act : State → State) : Result :=
  match s.sequencer with
  | .io _ | .mem _ => .next s
  | .idle => .next (if s.idle = l then act s else s)

/-- `PREQ`: `pause_req <- 1`; refused while a request is outstanding (R153). -/
def execPreq (s : State) : Result :=
  whenFree s fun s =>
    if s.pause.req then .refused .requestOutstanding
    else .next { beginHost .preq s with pause.req := true }

/-- `PWAIT`: passes when `pause_ack = 1`; until then UI stands at it and repeats the read (R154,
R183). -/
def execPwait (s : State) : Result :=
  match s.host.activity with
  | .between =>
    let t := beginHost .pwait s
    .next (if s.pause.ack then t else setActivity .waitingAck t)
  | .waitingAck => .next (if s.pause.ack then setActivity .between s else s)
  | .clearing _ _ | .decoding _ | .reading _ _ | .loading _ _ | .saving _ _ | .encoding _ _ => .next s

/-- `PREL`: `pause_req <- 0` (R155). -/
def execPrel (s : State) : Result :=
  whenFree s fun s => .next { beginHost .prel s with pause.req := false }

/-- `IPOLL`: on a request IACK is next, else a round of housekeeping and another poll (R156). -/
def execIpoll (s : State) : Result :=
  idleRow s .ipoll fun s => { s with idle := if s.pause.req then .iack else .ipoll }

/-- `IACK`: `pause_ack <- 1` (R157). -/
def execIack (s : State) : Result :=
  idleRow s .iack fun s => { s with pause.ack := true, idle := .ispin }

/-- `ISPIN`: repeats while the request stands (R158, R183). -/
def execIspin (s : State) : Result :=
  idleRow s .ispin fun s => { s with idle := if s.pause.req then .ispin else .iresume }

/-- `IRESUME`: `pause_ack <- 0`, back to IPOLL (R158; decision D13). -/
def execIresume (s : State) : Result :=
  idleRow s .iresume fun s => { s with pause.ack := false, idle := .ipoll }

end Sys2Proof.Machine
end

