-- ==== Sys2Proof/Machine/HexCodec.lean ====
section
/-! DEFINITION. The hex record codec: the decoder's action for each character class and parser state
(R130 to R146), and the encoder (R147 to R149). -/

namespace Sys2Proof.Machine

/-! ### The decoder -/

/-- Replace the decoder's variables. -/
def setDec (d : Decoder) (s : State) : State := { s with host.dec := d }

/-- The digits of a unit have begun and are not complete: the first of a pair, or one to three of an
origin (R143). -/
def splitPending (d : Decoder) : Bool :=
  d.nib.isSome || (d.pstate == .inOrigin && decide (0 < d.ocnt))

/-- Refuse a split unit, else act (R143). -/
def unlessSplit (s : State) (act : State → State) : Result :=
  if splitPending s.host.dec then .refused .splitUnit else .next (act s)

/-- A set of offsets as a strictly rising list, with one more. -/
def insertOffset (i : Nat) : List Nat → List Nat
  | [] => [i]
  | j :: js => if i < j then i :: j :: js else if i = j then j :: js else j :: insertOffset i js

/-- `StoreByte(v)` (R137). -/
def storeByte (v : Byte) (s : State) : State :=
  let d := s.host.dec
  if d.cursor < Config.bankSize then
    setDec { d with cursor := d.cursor + 1, written := insertOffset d.cursor d.written }
      (setScratchByte d.cursor v s)
  else raiseDecodeError s

/-- `ApplyOrigin(o)` (R139). -/
def applyOrigin (o : BitVec 16) (s : State) : State :=
  if o.toNat < Config.originBias ∨ Config.bankSize ≤ o.toNat - Config.originBias then
    raiseDecodeError s
  else setDec { s.host.dec with cursor := o.toNat - Config.originBias } s

/-- `CH_LT`: comment and origin state are left; LF counts a line (R132). -/
def lineEnd (lf : Bool) (s : State) : Result :=
  unlessSplit s fun s =>
    setDec { s.host.dec with pstate := .normal,
                             line := s.host.dec.line + (if lf then 1 else 0) } s

/-- `CH_HASH` (R133). -/
def hashMark (s : State) : Result :=
  match s.host.dec.pstate with
  | .inComment => .next s
  | .normal | .inOrigin =>
    unlessSplit s fun s => setDec { s.host.dec with pstate := .inComment } s

/-- `CH_ORG` (R134). -/
def originMark (s : State) : Result :=
  match s.host.dec.pstate with
  | .inComment => .next s
  | .normal | .inOrigin =>
    unlessSplit s fun s => setDec { s.host.dec with pstate := .inOrigin, oacc := 0, ocnt := 0 } s

/-- `CH_SEP` (R135). -/
def separator (s : State) : Result :=
  match s.host.dec.pstate with
  | .inComment => .next s
  | .normal | .inOrigin => unlessSplit s fun s => s

/-- `CH_HEX` in `Normal` state (R136). -/
def dataDigit (d : BitVec 4) (s : State) : State :=
  match s.host.dec.nib with
  | none => setDec { s.host.dec with nib := some d } s
  | some hi => storeByte (byteOfDigits hi d) (setDec { s.host.dec with nib := none } s)

/-- Whether the decode goes on (R146). -/
def decodeRunning (s : State) : Bool := s.host.dec.status == .running

/-- The origin state is left, unless the origin was an error, which ended the decode (R138, R139). -/
def leaveOrigin (s : State) : State :=
  if decodeRunning s then setDec { s.host.dec with pstate := .normal } s else s

/-- `CH_HEX` in `InOrigin` state: the fourth digit applies the origin and leaves the state (R138). -/
def originDigitAct (d : BitVec 4) (s : State) : State :=
  let acc := originDigit s.host.dec.oacc d
  let n := s.host.dec.ocnt + 1
  let t := setDec { s.host.dec with oacc := acc, ocnt := n } s
  if n = 4 then leaveOrigin (applyOrigin acc t) else t

/-- The action of a character, by its class and the parser state (R131 to R142). -/
def charAct (c : Byte) (s : State) : Result :=
  match charClass c, s.host.dec.pstate with
  | .lt, _ => lineEnd (c == 0x0A) s
  | .hash, .inComment | .org, .inComment | .sep, .inComment | .hex, .inComment
  | .bad, .inComment => .next s
  | .hash, .normal | .hash, .inOrigin => hashMark s
  | .org, .normal | .org, .inOrigin => originMark s
  | .sep, .normal | .sep, .inOrigin => separator s
  | .hex, .normal => .next (dataDigit (hexval c) s)
  | .hex, .inOrigin => .next (originDigitAct (hexval c) s)
  | .bad, .normal | .bad, .inOrigin => .next (raiseDecodeError s)

/-- The decoder as a decode begins (R130). -/
def beginDecode (s : State) : State := setDec Decoder.initial s

/-- The step that reads one character of a stream (R56, R62, R131): its action, and the UI goes on at
`u`, or, if it was an error, its operation ends there (R146). -/
def readChar (c : Byte) (u : UiActivity) (s : State) : Result :=
  match charAct c s with
  | .next t => .next (setActivity (if decodeRunning t then u else .between) t)
  | .fault r => .fault r
  | .refused r => .refused r

/-- A step of a decode that has not failed; no run reaches another one. -/
def whileDecoding (s : State) (act : State → Result) : Result :=
  if decodeRunning s then act s else .next (setActivity .between s)

/-- One step of `decode(stream)`: the next character, or the end of the stream, which is a success
unless a unit is split (R144). -/
def decodeStep (rest : List Byte) (s : State) : Result :=
  whileDecoding s fun s =>
    match rest with
    | [] => unlessSplit s fun s => setActivity .between (giveBack .success s)
    | c :: cs => readChar c (.decoding cs) s

/-! ### The encoder -/

/-- An upper-case hex digit character (R147). -/
def hexChar (d : BitVec 4) : Byte :=
  if d.toNat ≤ 9 then digitChar d else upperChar ((d - 9).setWidth 3)

/-- `HEX2(v)`: two characters, the high nibble first (R147). -/
def hex2 (v : Byte) : List Byte := [hexChar (v.extractLsb' 4 4), hexChar (v.extractLsb' 0 4)]

/-- `Sep(i)`: nothing before byte 0, a line break before each positive multiple of 16, else one space
(R148). -/
def sepBefore (i : Nat) : List Byte :=
  if i = 0 then [] else if i % Config.bytesPerLine = 0 then [Config.lineBreak] else [0x20]

/-- The text of byte `i`, with the separator before it (R147). -/
def encodeByte (i : Nat) (v : Byte) : List Byte := sepBefore i ++ hex2 v

/-- The text of bytes `i`, `i + 1`, … (R147). -/
def encodeFrom : Nat → List Byte → List Byte
  | _, [] => []
  | i, v :: vs => encodeByte i v ++ encodeFrom (i + 1) vs

/-- `encode(buf)` (R147). -/
def encodeText (buf : List Byte) : List Byte := encodeFrom 0 buf

/-! ### The meanings -/

/-- A character row of some parser states: the UI is between operations, the decode goes on, and the
decoder is in a state the row is for; else the turn passes without effect (logs 12, 29). -/
def charRow (s : State) (states : List PState) (act : State → Result) : Result :=
  whenFree s fun s =>
    if decodeRunning s && states.contains s.host.dec.pstate then act s else .next s

/-- `DECODE`: begun when the UI is between operations, with the scratch buffer as its destination;
then one character each time it is performed again, the stream being known (R131; logs 18, 19). -/
def execHexDecode (stream : List Byte) (s : State) : Result :=
  match s.host.activity with
  | .between => .next (setActivity (.decoding stream) (beginDecode (beginHost (.hexDecode stream) s)))
  | .decoding rest => decodeStep rest s
  | .waitingAck | .clearing _ _ | .reading _ _ | .loading _ _ | .saving _ _ | .encoding _ _ => .next s

/-- LF (R132). -/
def execChLtLf (s : State) : Result :=
  charRow s [.normal, .inComment, .inOrigin] (lineEnd true)

/-- CR (R132). -/
def execChLtCr (s : State) : Result :=
  charRow s [.normal, .inComment, .inOrigin] (lineEnd false)

/-- `#` (R133). -/
def execChHash (s : State) : Result :=
  charRow s [.normal, .inComment, .inOrigin] hashMark

/-- `@` (R134). -/
def execChOrgAt (s : State) : Result :=
  charRow s [.normal, .inComment, .inOrigin] originMark

/-- `:` (R134). -/
def execChOrgColon (s : State) : Result :=
  charRow s [.normal, .inComment, .inOrigin] originMark

/-- Space (R135). -/
def execChSepSpace (s : State) : Result :=
  charRow s [.normal, .inComment, .inOrigin] separator

/-- Tab (R135). -/
def execChSepTab (s : State) : Result :=
  charRow s [.normal, .inComment, .inOrigin] separator

/-- `0` to `9` as data (R136). -/
def execChHexNormalDigit (d : BitVec 4) (s : State) : Result :=
  charRow s [.normal] fun s => .next (dataDigit (digitValue d) s)

/-- `A` to `F` as data (R136). -/
def execChHexNormalUpper (h : BitVec 3) (s : State) : Result :=
  charRow s [.normal] fun s => .next (dataDigit (letterValue h) s)

/-- `a` to `f` as data (R136). -/
def execChHexNormalLower (h : BitVec 3) (s : State) : Result :=
  charRow s [.normal] fun s => .next (dataDigit (letterValue h) s)

/-- `0` to `9` in an origin (R138). -/
def execChHexOriginDigit (d : BitVec 4) (s : State) : Result :=
  charRow s [.inOrigin] fun s => .next (originDigitAct (digitValue d) s)

/-- `A` to `F` in an origin (R138). -/
def execChHexOriginUpper (h : BitVec 3) (s : State) : Result :=
  charRow s [.inOrigin] fun s => .next (originDigitAct (letterValue h) s)

/-- `a` to `f` in an origin (R138). -/
def execChHexOriginLower (h : BitVec 3) (s : State) : Result :=
  charRow s [.inOrigin] fun s => .next (originDigitAct (letterValue h) s)

/-- An invalid character outside comments and origins (R140). -/
def execChBadNormal (_c : Byte) (s : State) : Result :=
  charRow s [.normal] fun s => .next (raiseDecodeError s)

/-- An invalid character in an origin (R141). -/
def execChBadOrigin (_c : Byte) (s : State) : Result :=
  charRow s [.inOrigin] fun s => .next (raiseDecodeError s)

/-- Any character but a line terminator in a comment: ignored (R142). -/
def execChAnyComment (_c : Byte) (s : State) : Result :=
  charRow s [.inComment] fun s => .next s

/-- `encode(buf)`: the text goes to the output stream, and nothing else is written (R147; log 23). -/
def execHexEncode (buf : List Byte) (s : State) : Result :=
  whenFree s fun s =>
    if buf.length = Config.bankSize then
      .next { beginHost (.hexEncode buf) s with host.fileOut := encodeText buf }
    else .refused .bufferSize

end Sys2Proof.Machine
end

