-- ==== Sys2Proof/Machine/Remapper.lean ====
section
/-! DEFINITION. The address remapper: a bit permutation used by the save path only (R126 to R129). -/

namespace Sys2Proof.Machine

/-- `REMAP`: logical bit, physical bit (R126; decision D25). -/
def remapTable : List (Nat × Nat) :=
  [(0, 6), (1, 7), (2, 8), (3, 9), (4, 10), (5, 5), (6, 0), (7, 1), (8, 2), (9, 3), (10, 4),
   (11, 11), (12, 12), (13, 13), (14, 14)]

/-- `REMAP_ROT6`: the named alternative of R128, the rotation of the low 11 bits left by 6. -/
def remapRot6 : List (Nat × Nat) :=
  [(0, 6), (1, 7), (2, 8), (3, 9), (4, 10), (5, 0), (6, 1), (7, 2), (8, 3), (9, 4), (10, 5),
   (11, 11), (12, 12), (13, 13), (14, 14)]

/-- The permutation a table describes: bit `s` of the argument is bit `d` of the result (R127). -/
def remapWith (table : List (Nat × Nat)) (a : BankIndex) : BankIndex :=
  table.foldl (fun p sd => if a.getLsbD sd.1 then p ||| (1#15 <<< sd.2) else p) 0

/-- `remap(a)` (R127). -/
def remapAddr (a : BankIndex) : BankIndex := remapWith remapTable a

/-- `remap(logical_addr)`: pure, total on 0 to 32767, refused above (R127). -/
def execRemap (a : Addr) (s : State) : Result :=
  whenFree s fun s =>
    if a.toNat < Config.bankSize then
      .next (giveBack (.address (remapAddr (a.setWidth 15))) (beginHost (.remap a) s))
    else .refused .remapOutOfRange

end Sys2Proof.Machine
end

