-- ==== Sys2Proof/Machine/SaveLoad.lean ====
section
/-! DEFINITION. The save and load paths (R150 to R152, R175): sequences of steps of one byte or one
character each, which the handlers may interleave with (R56, R62; log 18). -/

namespace Sys2Proof.Machine

/-- Hand a text to FILE: all of it, or as much as the collaborator takes before it fails (R175;
log 22). -/
def handToFile (text : List Byte) (s : State) : State :=
  match s.host.storage with
  | none => giveBack .success { s with host.fileOut := text }
  | some k => giveBack .storageError { s with host.fileOut := text.take k }

/-- One step of the encoding of `save()`: `text <- text, encode(scratch[i])`; after the last byte the
text is handed to FILE (R147, R150). -/
def encodeStep (i : Nat) (text : List Byte) (s : State) : State :=
  if i < Config.bankSize then
    setActivity (.encoding (i + 1) (text ++ encodeByte i (scratchByte s i))) s
  else setActivity .between (handToFile text s)

/-- One step of the fill of `save()`: `scratch[a] <- bank[b][remap(a)]`; after the last byte the
encoding begins (R150). -/
def saveStep (b : BankNumber) (a : Nat) (s : State) : State :=
  if a < Config.bankSize then
    setActivity (.saving b (a + 1))
      (setScratchByte a (bankByte s b (remapAddr (BitVec.ofNat 15 a))) s)
  else encodeStep 0 [] s

/-- Whether FILE gives no more of a stream of which it has given `n` characters (R175; log 22). -/
def storageStops (rest : List Byte) (n : Nat) (s : State) : Bool :=
  match s.host.storage with
  | none => false
  | some k => rest.isEmpty || decide (k ≤ n)

/-- One step of the decode of `load(stream)`: the next character, or the end of the stream, after which
the copy into the current bank stands next; on `DecodeError` or `StorageError` the load ends with the
bank unchanged (R151, R175). That such a load also leaves `name[b]` as it was is the
model's (log 36). -/
def fetchStep (rest : List Byte) (n : Nat) (s : State) : Result :=
  whileDecoding s fun s =>
    if storageStops rest n s then .next (setActivity .between (giveBack .storageError s))
    else
      match rest with
      | [] => unlessSplit s fun s => setActivity (.loading s.store.curBank 0) s
      | c :: cs => readChar c (.reading cs (n + 1)) s

/-- One step of the copy of `load(stream)`: an offset the stream stored gets its byte with no
permutation, any other offset an arbitrary byte; then the name becomes unspecified (R151; logs 4, 5,
18). -/
def loadStep (b : BankNumber) (i : Nat) (s : State) : State :=
  if i < Config.bankSize then
    let (v, t) := if s.host.dec.written.contains i then (scratchByte s i, s) else draw8 s
    setActivity (.loading b (i + 1)) (setBankByte b (BitVec.ofNat 15 i) v t)
  else
    setActivity .between (giveBack .success
      (setName b (Config.loadedName s.book.draws) { s with book.draws := s.book.draws + 1 }))

/-! ### The meanings -/

/-- `save()`: begun when the UI is between operations, with `cur_bank` read once; then one byte each
time it is performed again (R150). -/
def execSave (s : State) : Result :=
  match s.host.activity with
  | .between => .next (saveStep s.store.curBank 0 (beginHost .save s))
  | .saving b a => .next (saveStep b a s)
  | .encoding i text => .next (encodeStep i text s)
  | .waitingAck | .clearing _ _ | .decoding _ | .reading _ _ | .loading _ _ => .next s

/-- `load(stream)`: begun when the UI is between operations; then one character of the decode or one
byte of the copy each time it is performed again, the stream being known (R151). -/
def execLoad (stream : List Byte) (s : State) : Result :=
  match s.host.activity with
  | .between => .next (setActivity (.reading stream 0) (beginDecode (beginHost (.load stream) s)))
  | .reading rest n => fetchStep rest n s
  | .loading b i => .next (loadStep b i s)
  | .waitingAck | .clearing _ _ | .decoding _ | .saving _ _ | .encoding _ _ => .next s

end Sys2Proof.Machine
end

