-- ==== Sys2Proof/Machine/Dispatch.lean ====
section
/-! DEFINITION. The dispatch table: one arm for each operation of R67, in the opcode table's order. -/

namespace Sys2Proof.Machine

def exec (i : Instr) (s : State) : Host.Outcome State Fault Refusal :=
  match i with
  | .selpLowAddrIn => Sys2Proof.Machine.execSelpLowAddrIn s
  | .selpHighAddrIn => Sys2Proof.Machine.execSelpHighAddrIn s
  | .selpDataIn => Sys2Proof.Machine.execSelpDataIn s
  | .selpDataOut => Sys2Proof.Machine.execSelpDataOut s
  | .neut => Sys2Proof.Machine.execNeut s
  | .settle k => Sys2Proof.Machine.execSettle k s
  | .shin => Sys2Proof.Machine.execShin s
  | .shout v => Sys2Proof.Machine.execShout v s
  | .samp r => Sys2Proof.Machine.execSamp r s
  | .tst l => Sys2Proof.Machine.execTst l s
  | .edgeIo fallMreq => Sys2Proof.Machine.execEdgeIo fallMreq s
  | .edgeMem => Sys2Proof.Machine.execEdgeMem s
  | .dispatch => Sys2Proof.Machine.execDispatch s
  | .iret => Sys2Proof.Machine.execIret s
  | .iocyc => Sys2Proof.Machine.execIocyc s
  | .memcyc => Sys2Proof.Machine.execMemcyc s
  | .memrd w c => Sys2Proof.Machine.execMemrd w c s
  | .memAbortRdInactive w c => Sys2Proof.Machine.execMemAbortRdInactive w c s
  | .memAbortMreqInactive r w c => Sys2Proof.Machine.execMemAbortMreqInactive r w c s
  | .iowrMem m r => Sys2Proof.Machine.execIowrMem m r s
  | .iowrCon m r => Sys2Proof.Machine.execIowrCon m r s
  | .ioNowr m r c => Sys2Proof.Machine.execIoNowr m r c s
  | .bankRead b a => Sys2Proof.Machine.execBankRead b a s
  | .bankWrite b a v => Sys2Proof.Machine.execBankWrite b a v s
  | .read bank addr => Sys2Proof.Machine.execRead bank addr s
  | .write bank addr v => Sys2Proof.Machine.execWrite bank addr v s
  | .clear bank => Sys2Proof.Machine.execClear bank s
  | .curbank => Sys2Proof.Machine.execCurbank s
  | .setbank n => Sys2Proof.Machine.execSetbank n s
  | .remap a => Sys2Proof.Machine.execRemap a s
  | .hexDecode stream => Sys2Proof.Machine.execHexDecode stream s
  | .chLtLf => Sys2Proof.Machine.execChLtLf s
  | .chLtCr => Sys2Proof.Machine.execChLtCr s
  | .chHash => Sys2Proof.Machine.execChHash s
  | .chOrgAt => Sys2Proof.Machine.execChOrgAt s
  | .chOrgColon => Sys2Proof.Machine.execChOrgColon s
  | .chSepSpace => Sys2Proof.Machine.execChSepSpace s
  | .chSepTab => Sys2Proof.Machine.execChSepTab s
  | .chHexNormalDigit d => Sys2Proof.Machine.execChHexNormalDigit d s
  | .chHexNormalUpper h => Sys2Proof.Machine.execChHexNormalUpper h s
  | .chHexNormalLower h => Sys2Proof.Machine.execChHexNormalLower h s
  | .chHexOriginDigit d => Sys2Proof.Machine.execChHexOriginDigit d s
  | .chHexOriginUpper h => Sys2Proof.Machine.execChHexOriginUpper h s
  | .chHexOriginLower h => Sys2Proof.Machine.execChHexOriginLower h s
  | .chBadNormal c => Sys2Proof.Machine.execChBadNormal c s
  | .chBadOrigin c => Sys2Proof.Machine.execChBadOrigin c s
  | .chAnyComment c => Sys2Proof.Machine.execChAnyComment c s
  | .hexEncode buf => Sys2Proof.Machine.execHexEncode buf s
  | .save => Sys2Proof.Machine.execSave s
  | .load stream => Sys2Proof.Machine.execLoad stream s
  | .preq => Sys2Proof.Machine.execPreq s
  | .pwait => Sys2Proof.Machine.execPwait s
  | .prel => Sys2Proof.Machine.execPrel s
  | .ipoll => Sys2Proof.Machine.execIpoll s
  | .iack => Sys2Proof.Machine.execIack s
  | .ispin => Sys2Proof.Machine.execIspin s
  | .iresume => Sys2Proof.Machine.execIresume s

end Sys2Proof.Machine
end

