-- ==== Sys2Proof/Machine/Schedule.lean ====
section
/-! DEFINITION. Who moves next: the environment's turns, the operation each agent's own control state
selects, the agent that moves when no turn is written, and the place of the next script line. -/

namespace Sys2Proof.Machine

/-- The environment inputs after an ENV step (R86). -/
def changedInputs (c : EnvChange) (e : EnvInputs) : EnvInputs :=
  { mreqN := c.mreqN.getD e.mreqN
    iorqN := c.iorqN.getD e.iorqN
    rdN := c.rdN.getD e.rdN
    wrN := c.wrN.getD e.wrN
    a := c.a.getD e.a
    dcpu := c.dcpu.getD e.dcpu
    dcpuDrv := c.dcpuDrv.getD e.dcpuDrv }

/-- An ENV step, with the edge detector folded into it (R32, R70, R163; log 10). -/
def envStep (c : EnvChange) (s : State) : State :=
  observeIorq (observeMreq (noteContention s { s with env := changedInputs c s.env }))

/-- The CPU samples its data bus (R98; log 27). -/
def cpuSampleStep (s : State) : State :=
  let (v, t) := cpuBus s
  { t with book.cpuLatch := v }

/-- The storage collaborator changes its behaviour (R175; log 22). -/
def storageStep (k : Option Nat) (s : State) : State := { s with host.storage := k }

/-- The operation IRQ performs next: the running handler's step, else a dispatch when a latch is set
(R166, R169). -/
def irqNext (s : State) : Option Instr :=
  match s.sequencer with
  | .io _ => some .iocyc
  | .mem _ => some .memcyc
  | .idle => if s.edge.pendIo || s.edge.pendMem then some .dispatch else none

/-- The operation BUSIDLE performs next; none while a handler runs (R171). -/
def busIdleNext (s : State) : Option Instr :=
  match s.sequencer with
  | .io _ | .mem _ => none
  | .idle =>
    match s.idle with
    | .ipoll => some .ipoll
    | .iack => some .iack
    | .ispin => some .ispin
    | .iresume => some .iresume

/-- The operation UI goes on with, if it is inside one (R56, R154). -/
def uiNext (s : State) : Option Instr :=
  match s.host.activity with
  | .between => none
  | .waitingAck => some .pwait
  | .clearing b _ => some (.clear (b.setWidth 8))
  | .decoding _ => some (.hexDecode [])
  | .reading _ _ | .loading _ _ => some (.load [])
  | .saving _ _ | .encoding _ _ => some .save

/-- The operation an agent's control state selects. -/
def agentNext : Agent → State → Option Instr
  | .irq, s => irqNext s
  | .busIdle, s => busIdleNext s
  | .ui, s => uiNext s

/-- Whether UI can go on without another agent moving first (R183). -/
def uiCanMove (s : State) : Bool :=
  match s.host.activity with
  | .between => false
  | .waitingAck => s.pause.ack
  | .clearing _ _ | .decoding _ | .reading _ _ | .loading _ _ | .saving _ _ | .encoding _ _ => true

/-- The agent that moves when the script is empty: IRQ if it can, else UI if it can, else BUSIDLE
(one of the schedules R211's fairness allows; log 7). -/
def defaultAgent (s : State) : Agent :=
  if (irqNext s).isSome then .irq else if uiCanMove s then .ui else .busIdle

/-- The turns still to come. -/
def setScript (ts : List Turn) (s : State) : State := { s with book.script := ts }

/-- The state in which a script line is the next turn. -/
def placeLine (line : List Byte) (s : State) : State := setScript (.line line :: s.book.script) s

/-- What a step answers to a line that names no operation: nothing happens on `TRIG = 0b00` (R70), an
illegal control word is a fault of the model (R73), any other line is refused. -/
def onReject (r : Reject) (s : State) : Result :=
  match r with
  | .noEdge => .next s
  | .illegalMuxctl w => .fault (.illegalControlWord w)
  | .empty | .unknownSelector _ | .illegalTrig _ | .illegalCyc _ | .operandCount | .operandValue =>
    .refused .noSuchOperation

end Sys2Proof.Machine
end

