-- ==== Sys2Proof/Machine/Step.lean ====
section
/-! DEFINITION. One step of the machine: one turn of the schedule (R86, R211). -/

namespace Sys2Proof.Machine

/-- An agent takes the step its control state selects; without one it waits (R183). -/
def runAgent (a : Agent) (s : State) : Host.Outcome State Fault Refusal :=
  match agentNext a s with
  | some i => exec i s
  | none => .next s

/-- The operation a line names is performed. -/
def runLine (bytes : List Byte) (s : State) : Host.Outcome State Fault Refusal :=
  match decode s.host.dec.pstate bytes with
  | .ok i => exec i s
  | .reject r => onReject r s

/-- One step: the first turn of the script is taken off it and performed; with no turn left, the
agents go on by themselves (log 7). -/
def step (s : State) : Host.Outcome State Fault Refusal :=
  match s.book.script with
  | [] => runAgent (defaultAgent s) s
  | .env c :: rest => .next (envStep c (setScript rest s))
  | .cpuSample :: rest => .next (cpuSampleStep (setScript rest s))
  | .storage k :: rest => .next (storageStep k (setScript rest s))
  | .agent a :: rest => runAgent a (setScript rest s)
  | .line bytes :: rest => runLine bytes (setScript rest s)

/-- The state with a table word's line as the next turn; a row of width 0 has no word and places
nothing (log 8). -/
def State.withFetchWord (s : State) (nbits w : Nat) : State :=
  match tableLine nbits w with
  | some line => placeLine line s
  | none => s

end Sys2Proof.Machine
end

