-- ==== Sys2Proof/Machine/Timing.lean ====
section
/-! DEFINITION. How long a handler run lasts, as formulas over the open settle durations (R180, R210).
No rule of the machine reads them (R211; log 26). -/

namespace Sys2Proof.Machine

/-- The settle waits of an I/O-cycle run, by outcome (R180). -/
def ioSettles : IoOutcome → List SettlePoint
  | .iowrMem | .iowrCon => [.ioLow, .ioHigh, .ioData]
  | .ioNowr => [.ioLow, .ioHigh]

/-- The settle waits of a memory-cycle run, by outcome (R180). -/
def memSettles : MemOutcome → List SettlePoint
  | .memrd => [.memLow, .memHigh, .memData]
  | .abortRdInactive | .abortMreqInactive => [.memLow]

/-- The sum of some settle waits (R210). -/
def duration (ks : List SettlePoint) : Nat := (ks.map Config.settleTime).sum

end Sys2Proof.Machine
end

