-- ==== Sys2Proof/Safety.lean ====
section
/-! DEFINITION. What counts as a safe state and a safe run, in the terms the statements use: the exit
invariant (R100), quiescence (R214), the silent bus of a bracketed operation (R160), and the
invariants of the machine's data; and the terms in which frames and runs are stated. -/

namespace Sys2Proof.Machine

/-- The engine drives nothing and no channel is selected: what every exit restores (R100). -/
def arbiterAtRest (a : MuxArbiter) : Bool := a.mux == .neutral && a.shMode == .input

/-- A selected channel with the shared lines released. -/
def arbiterSamples (p : MuxState) (a : MuxArbiter) : Bool := a.mux == p && a.shMode == .input

/-- What the arbiter's outputs are while the sequencer stands at each label: the exit invariant of
R18, R19, R100 at `idle`, and what carries it through the handlers (R102 to R108, R110 to R115). A
label that samples has a completed settle (R190). -/
def arbiterFits (q : Sequencer) (a : MuxArbiter) : Bool :=
  match q with
  | .idle | .io .io0 | .io .io1a => arbiterAtRest a
  | .io .io1b | .io .io2a => arbiterSamples .lowAddrIn a
  | .io .io1c | .io .io1d => arbiterSamples .lowAddrIn a && a.settled
  | .io .io2b | .io .io3 | .io .io3a1 => arbiterSamples .highAddrIn a
  | .io .io2c => arbiterSamples .highAddrIn a && a.settled
  | .io .io3a2 | .io .io3bc => arbiterSamples .dataIn a
  | .io .io3a3 => arbiterSamples .dataIn a && a.settled
  | .io .io4 => arbiterSamples .highAddrIn a || arbiterSamples .dataIn a
  | .mem .m0 | .mem .m1a | .mem .m1e | .mem .m2 | .mem .m3a | .mem .m4 | .mem .m5a =>
    arbiterAtRest a
  | .mem .m1b | .mem .m1d => arbiterSamples .lowAddrIn a
  | .mem .m1c => arbiterSamples .lowAddrIn a && a.settled
  | .mem .m3b | .mem .m3d => arbiterSamples .highAddrIn a
  | .mem .m3c => arbiterSamples .highAddrIn a && a.settled
  | .mem .m5b | .mem .m5c => a.mux == .dataOut && a.shMode == .output
  | .mem .m5d => a.mux == .neutral && a.shMode == .output

/-- The memories are in canonical form and hold no key outside their address space (R37, R40). -/
def storeWf (b : BankStore) : Bool :=
  b.bank.wf && b.bank.below (Config.nBanks * Config.bankSize) &&
    b.scratch.wf && b.scratch.below Config.bankSize

/-- The edge detector has seen the present levels: ENV's steps are all observed (R32, R163). -/
def edgesSeen (s : State) : Bool :=
  s.edge.prevIorq == s.env.iorqN && s.edge.prevMreq == s.env.mreqN

/-- `pause_ack` is set exactly while the idle loop is past IACK and not past IRESUME (R157, R158). -/
def ackFits (s : State) : Bool :=
  s.pause.ack == (s.idle == .ispin || s.idle == .iresume)

/-- Offsets in strictly rising order, from `lo` on. -/
def risingFrom : Nat → List Nat → Bool
  | _, [] => true
  | lo, i :: is => decide (lo ≤ i) && risingFrom (i + 1) is

/-- The decoder's variables keep their ranges (R130); while a decode goes on, a first data digit is
pending in `Normal` state only, and fewer than four digits of an origin are (R136, R138). -/
def decoderWf (d : Decoder) : Bool :=
  decide (d.cursor ≤ Config.bankSize) && decide (d.ocnt ≤ 4) && decide (1 ≤ d.line) &&
    risingFrom 0 d.written && d.written.all (fun i => decide (i < Config.bankSize)) &&
    (d.status != .running || ((d.pstate == .normal || d.nib.isNone) &&
      (d.pstate != .inOrigin || decide (d.ocnt ≤ 3))))

/-- A micro-operation or `IRET`, which only IRQ performs, inside a handler (R89, R170). -/
def handlerOnly : Instr → Bool
  | .selpLowAddrIn | .selpHighAddrIn | .selpDataIn | .selpDataOut | .neut | .settle _ | .shin
  | .shout _ | .samp _ | .tst _ | .iret => true
  | .edgeIo _ | .edgeMem | .dispatch | .iocyc | .memcyc
  | .memrd _ _ | .memAbortRdInactive _ _ | .memAbortMreqInactive _ _ _ | .iowrMem _ _
  | .iowrCon _ _ | .ioNowr _ _ _ | .bankRead _ _ | .bankWrite _ _ _ | .read _ _ | .write _ _ _
  | .clear _ | .curbank | .setbank _ | .remap _ | .hexDecode _ | .chLtLf | .chLtCr | .chHash
  | .chOrgAt | .chOrgColon | .chSepSpace | .chSepTab | .chHexNormalDigit _ | .chHexNormalUpper _
  | .chHexNormalLower _ | .chHexOriginDigit _ | .chHexOriginUpper _ | .chHexOriginLower _
  | .chBadNormal _ | .chBadOrigin _ | .chAnyComment _ | .hexEncode _ | .save | .load _ | .preq
  | .pwait | .prel | .ipoll | .iack | .ispin | .iresume => false

/-- A turn that performs no micro-operation outside its handler (log 28). -/
def turnOk : Turn → Bool
  | .line bytes =>
    match decode .normal bytes with
    | .ok i => !handlerOnly i
    | .reject _ => true
  | .env _ | .cpuSample | .storage _ | .agent _ => true

/-- The schedule leaves the micro-operations to the handlers (R89; log 28). -/
def scriptOk (ts : List Turn) : Bool := ts.all turnOk

/-- The invariant of the machine. -/
def Inv (s : State) : Prop :=
  arbiterFits s.sequencer s.arb = true ∧ storeWf s.store = true ∧ edgesSeen s = true ∧
    ackFits s = true ∧ decoderWf s.host.dec = true ∧ scriptOk s.book.script = true

/-- Quiescence, this hardware's end of a run (R214). -/
def Quiescent (s : State) : Prop :=
  s.sequencer = .idle ∧ s.edge.pendIo = false ∧ s.edge.pendMem = false ∧
    arbiterAtRest s.arb = true ∧ s.pause = { req := false, ack := false } ∧
    s.host.activity = .between

/-- The bus is silent: no handler runs and none is pending. -/
def BusSilent (s : State) : Prop :=
  s.edge.pendIo = false ∧ s.edge.pendMem = false ∧ s.sequencer = .idle

/-- `n` steps of the machine, one after another. -/
def runSteps : Nat → State → Result
  | 0, s => .next s
  | n + 1, s =>
    match step s with
    | .next t => runSteps n t
    | .fault r => .fault r
    | .refused r => .refused r

/-- R160's premise `NoBusActivity`, of an operation whose first step is the next one and whose last is the
`n`-th: the bus is silent as it begins, and before its last step no `Edge` event is recorded. -/
def NoBusActivity (n : Nat) (s : State) : Prop :=
  BusSilent s ∧ ∀ (m : Nat) (t : State) (src : Source), m < n → runSteps m s = .next t →
    .edge src ∉ t.book.hist.drop s.book.hist.length

/-- A turn of one of R11's agents, not of a line that names an operation. -/
def agentTurn : Turn → Bool
  | .env _ | .cpuSample | .storage _ | .agent _ => true
  | .line _ => false

/-! ### Terms of the statements -/

/-- Every bank byte reads as before. -/
def BankKept (s t : State) : Prop := ∀ b i, bankByte t b i = bankByte s b i

/-- Every bank byte but one reads as before. -/
def BankKeptBut (b : BankNumber) (i : BankIndex) (s t : State) : Prop :=
  ∀ b' i', ¬(b' = b ∧ i' = i) → bankByte t b' i' = bankByte s b' i'

/-- Every scratch byte reads as before. -/
def ScratchKept (s t : State) : Prop := ∀ i, scratchByte t i = scratchByte s i

/-- Every scratch byte but one reads as before. -/
def ScratchKeptBut (i : Nat) (s t : State) : Prop :=
  ∀ i', i' ≠ i → scratchByte t i' = scratchByte s i'

/-- The same operation performed `n` times, one after another. -/
def repeatExec (i : Instr) : Nat → State → Result
  | 0, s => .next s
  | n + 1, s =>
    match exec i s with
    | .next t => repeatExec i n t
    | .fault r => .fault r
    | .refused r => .refused r

/-- The code of an upper-case hex digit (R147). -/
def hexCode (n : Nat) : Nat := if n ≤ 9 then 0x30 + n else 0x37 + n

/-- The micro-operations still ahead of a handler at a label, at most 14 and 16 (R30). -/
def stepsLeft : Sequencer → Nat
  | .idle => 0
  | .io .io0 => 14
  | .io .io1a => 13
  | .io .io1b => 12
  | .io .io1c => 11
  | .io .io1d => 10
  | .io .io2a => 9
  | .io .io2b => 8
  | .io .io2c => 7
  | .io .io3 => 6
  | .io .io3a1 => 5
  | .io .io3a2 => 4
  | .io .io3a3 => 3
  | .io .io3bc => 2
  | .io .io4 => 1
  | .mem .m0 => 16
  | .mem .m1a => 15
  | .mem .m1b => 14
  | .mem .m1c => 13
  | .mem .m1d => 12
  | .mem .m1e => 11
  | .mem .m2 => 10
  | .mem .m3a => 9
  | .mem .m3b => 8
  | .mem .m3c => 7
  | .mem .m3d => 6
  | .mem .m4 => 5
  | .mem .m5a => 4
  | .mem .m5b => 3
  | .mem .m5c => 2
  | .mem .m5d => 1

/-- The stream splits no unit: from parser state `p` with `n` digits of the present unit consumed,
every pair and every origin quad is adjacent, up to the first character of class `BAD`, which ends a
decode (R82, R143). -/
def wholeUnits : PState → Nat → List Byte → Bool
  | _, n, [] => n == 0
  | p, n, c :: cs =>
    match charClass c, p with
    | .lt, _ => n == 0 && wholeUnits .normal 0 cs
    | .hash, .inComment | .org, .inComment | .sep, .inComment | .hex, .inComment
    | .bad, .inComment => wholeUnits .inComment n cs
    | .hash, .normal | .hash, .inOrigin => n == 0 && wholeUnits .inComment 0 cs
    | .org, .normal | .org, .inOrigin => n == 0 && wholeUnits .inOrigin 0 cs
    | .sep, .normal => n == 0 && wholeUnits .normal 0 cs
    | .sep, .inOrigin => n == 0 && wholeUnits .inOrigin 0 cs
    | .hex, .normal => wholeUnits .normal (1 - n) cs
    | .hex, .inOrigin =>
      if n = 3 then wholeUnits .normal 0 cs else wholeUnits .inOrigin (n + 1) cs
    | .bad, .normal | .bad, .inOrigin => true

end Sys2Proof.Machine
end

