-- ==== Sys2Proof/WellFormed.lean ====
section
/-! DEFINITION. Which operand values an operation may carry: the character constraints that are part
of a row's pattern (R81), the buffer size of `ENCODE` (R147), the non-empty line set of `TST` (R97).
The checks of single fields stand in Decode.lean, which reads the same fields. -/

namespace Sys2Proof

/-- The operand check of each operation. -/
def wellFormed : Instr → Bool
  | .tst l => l.nonempty
  | .chHexNormalDigit d => digitOk d
  | .chHexNormalUpper h => letterOk h
  | .chHexNormalLower h => letterOk h
  | .chHexOriginDigit d => digitOk d
  | .chHexOriginUpper h => letterOk h
  | .chHexOriginLower h => letterOk h
  | .chBadNormal c => decide (charClass c = .bad)
  | .chBadOrigin c => decide (charClass c = .bad)
  | .chAnyComment c => decide (charClass c ≠ .lt)
  | .hexEncode buf => decide (buf.length = Config.bankSize)
  | .selpLowAddrIn | .selpHighAddrIn | .selpDataIn | .selpDataOut | .neut | .settle _ | .shin
  | .shout _ | .samp _ | .edgeIo _ | .edgeMem | .dispatch | .iret | .iocyc | .memcyc
  | .memrd _ _ | .memAbortRdInactive _ _ | .memAbortMreqInactive _ _ _ | .iowrMem _ _
  | .iowrCon _ _ | .ioNowr _ _ _ | .bankRead _ _ | .bankWrite _ _ _ | .read _ _ | .write _ _ _
  | .clear _ | .curbank | .setbank _ | .remap _ | .hexDecode _ | .chLtLf | .chLtCr | .chHash
  | .chOrgAt | .chOrgColon | .chSepSpace | .chSepTab | .save | .load _ | .preq | .pwait | .prel
  | .ipoll | .iack | .ispin | .iresume => true

end Sys2Proof
end

