-- ==== Sys2Proof/Certificates/Slice0/Obligations.lean ====
section
/-! DEFINITION. The statements about the model. A docstring names the rule a statement formalises, or,
where a clause rests on a convention of the model, the log entry. In a statement of the form
`{ t with f := s.f } = …` every component but `f` is the one the right side gives, and `f` is
described beside it. -/

open Sys2Proof Sys2Proof.Machine

/-! ### Encoding -/

/-- Words written out from the spec's encodings: `MUXCTL` (R72), `TRIG` (R70), `CYC` (R75), characters
(R81). The selector byte before each word is the model's (log 8). -/
def Obligations.SpecWordsDecode : Prop :=
  decode .normal [0x01, 0b00110110] = .ok .selpLowAddrIn ∧
  decode .normal [0x01, 0b00111011] = .ok .selpDataOut ∧
  decode .normal [0x02, 0b01] = .ok .edgeMem ∧
  decode .normal [0x03, 0b00000] = .ok (.memrd false false) ∧
  decode .normal [0x03, 0b10001] = .ok (.iowrCon false false) ∧
  decode .normal [0x04, 0x23] = .ok .chHash ∧
  decode .inOrigin [0x04, 0x46] = .ok (.chHexOriginUpper 6) ∧
  decode .normal [0x30, 1, 0x34, 0x12] = .ok (.bankRead 1 0x1234) ∧
  decode .normal [0x37, 0x34, 0x12] = .ok (.remap 0x1234) ∧
  decode .normal [0x40] = .ok .preq

/-- R73: of the 64 control words, the five of `CtlEncode` are an operation's, and 59 are illegal, among
them every word with two select bits at 0 and every word with a direction bit at 0 on a deselected
channel; presenting one is a fault of the model. -/
def Obligations.OnlyFiveControlWordsAreLegal : Prop :=
  ((List.range 64).filter fun w =>
      decode .normal [0x01, BitVec.ofNat 8 w] = .reject (.illegalMuxctl w)).length = 59 ∧
  (∀ w : BitVec 6,
    ((∃ m, ctlEncode m = w) ↔ ∃ i, decode .normal [0x01, w.setWidth 8] = .ok i) ∧
    ((∃ c d : Fin 3, c ≠ d ∧ (ctlSel w).getLsbD c = false ∧ (ctlSel w).getLsbD d = false) →
      ∀ m, ctlEncode m ≠ w) ∧
    ((∃ c : Fin 3, (ctlSel w).getLsbD c = true ∧ (ctlDir w).getLsbD c = false) →
      ∀ m, ctlEncode m ≠ w)) ∧
  ∀ (s : State) (rest : List Turn) (w : BitVec 6), (∀ m, ctlEncode m ≠ w) →
    s.book.script = .line [0x01, w.setWidth 8] :: rest →
    step s = .fault (.illegalControlWord w.toNat)

/-- R75's masks and matches: each value of `CYC` is in exactly one row, and decodes to it with the
ignored bits as operands. -/
def Obligations.CycRowsPartitionAllWords : Prop :=
  ∀ w : BitVec 5,
    ([(0b11100, 0b00000), (0b11100, 0b00100), (0b11000, 0b01000), (0b10011, 0b10000),
        (0b10011, 0b10001), (0b10010, 0b10010)].filter
      fun r : BitVec 5 × BitVec 5 => w &&& r.1 = r.2).length = 1 ∧
    (w &&& 0b11100 = 0b00000 →
      decode .normal [0x03, w.setWidth 8] = .ok (.memrd (w.getLsbD 1) (w.getLsbD 0))) ∧
    (w &&& 0b11100 = 0b00100 →
      decode .normal [0x03, w.setWidth 8] = .ok (.memAbortRdInactive (w.getLsbD 1) (w.getLsbD 0))) ∧
    (w &&& 0b11000 = 0b01000 →
      decode .normal [0x03, w.setWidth 8] =
        .ok (.memAbortMreqInactive (w.getLsbD 2) (w.getLsbD 1) (w.getLsbD 0))) ∧
    (w &&& 0b10011 = 0b10000 →
      decode .normal [0x03, w.setWidth 8] = .ok (.iowrMem (w.getLsbD 3) (w.getLsbD 2))) ∧
    (w &&& 0b10011 = 0b10001 →
      decode .normal [0x03, w.setWidth 8] = .ok (.iowrCon (w.getLsbD 3) (w.getLsbD 2))) ∧
    (w &&& 0b10010 = 0b10010 →
      decode .normal [0x03, w.setWidth 8] =
        .ok (.ioNowr (w.getLsbD 3) (w.getLsbD 2) (w.getLsbD 0)))

/-- R81's classes in R131's order: the line terminators first, then the comment state, then `#`, the
origin marks, the separators, the hex digits with their value fields, and every other code as an
invalid character. -/
def Obligations.CharactersSelectTheirRows : Prop :=
  ∀ (p : PState) (c : Byte),
    (c = 0x0A → decode p [0x04, c] = .ok .chLtLf) ∧
    (c = 0x0D → decode p [0x04, c] = .ok .chLtCr) ∧
    (p = .inComment → c ≠ 0x0A → c ≠ 0x0D → decode p [0x04, c] = .ok (.chAnyComment c)) ∧
    (p ≠ .inComment →
      (c = 0x23 → decode p [0x04, c] = .ok .chHash) ∧
      (c = 0x40 → decode p [0x04, c] = .ok .chOrgAt) ∧
      (c = 0x3A → decode p [0x04, c] = .ok .chOrgColon) ∧
      (c = 0x20 → decode p [0x04, c] = .ok .chSepSpace) ∧
      (c = 0x09 → decode p [0x04, c] = .ok .chSepTab)) ∧
    (0x30 ≤ c.toNat → c.toNat ≤ 0x39 →
      (p = .normal → decode p [0x04, c] = .ok (.chHexNormalDigit (BitVec.ofNat 4 (c.toNat - 0x30)))) ∧
      (p = .inOrigin → decode p [0x04, c] = .ok (.chHexOriginDigit (BitVec.ofNat 4 (c.toNat - 0x30))))) ∧
    (0x41 ≤ c.toNat → c.toNat ≤ 0x46 →
      (p = .normal → decode p [0x04, c] = .ok (.chHexNormalUpper (BitVec.ofNat 3 (c.toNat - 0x40)))) ∧
      (p = .inOrigin → decode p [0x04, c] = .ok (.chHexOriginUpper (BitVec.ofNat 3 (c.toNat - 0x40))))) ∧
    (0x61 ≤ c.toNat → c.toNat ≤ 0x66 →
      (p = .normal → decode p [0x04, c] = .ok (.chHexNormalLower (BitVec.ofNat 3 (c.toNat - 0x60)))) ∧
      (p = .inOrigin → decode p [0x04, c] = .ok (.chHexOriginLower (BitVec.ofNat 3 (c.toNat - 0x60))))) ∧
    (c ∉ [0x0A#8, 0x0D#8, 0x23#8, 0x40#8, 0x3A#8, 0x20#8, 0x09#8] →
      ¬(0x30 ≤ c.toNat ∧ c.toNat ≤ 0x39) → ¬(0x41 ≤ c.toNat ∧ c.toNat ≤ 0x46) →
      ¬(0x61 ≤ c.toNat ∧ c.toNat ≤ 0x66) →
      (p = .normal → decode p [0x04, c] = .ok (.chBadNormal c)) ∧
      (p = .inOrigin → decode p [0x04, c] = .ok (.chBadOrigin c)))

/-- Decoding what the encoder writes gives the operation back, with every operand: for every
well-formed operation, in every parser state its row is for (log 8 for the selectors). -/
def Obligations.DecodeOfEncodeIsIdentity : Prop :=
  ∀ (p : PState) (i : Instr), wellFormed i = true → readIn p i = true → decode p (encode i) = .ok i

/-- No line has two readings and no reading two lines: a line that decodes is the very line the encoder
writes, and what it decodes to is well-formed and read in that state. -/
def Obligations.EncodeOfDecodeIsIdentity : Prop :=
  ∀ (p : PState) (bytes : List Byte) (i : Instr), decode p bytes = .ok i →
    wellFormed i = true ∧ readIn p i = true ∧ encode i = bytes

/-! ### The step -/

/-- A step performs the operation its line names (R86; log 7 for the schedule as state). Also for a
word placed by `withFetchWord`. -/
def Obligations.StepPerformsTheDecodedLine : Prop :=
  (∀ (s : State) (bytes : List Byte) (rest : List Turn) (i : Instr),
    s.book.script = .line bytes :: rest → decode s.host.dec.pstate bytes = .ok i →
    step s = exec i { s with book.script := rest }) ∧
  ∀ (s : State) (nbits w : Nat) (line : List Byte) (i : Instr),
    tableLine nbits w = some line → decode s.host.dec.pstate line = .ok i →
    step (s.withFetchWord nbits w) = exec i s

/-- Whose turn it is, it performs the operation its own control state selects: IRQ the running handler,
else a dispatch if a latch is set (R166, R169); BUSIDLE nothing while a handler runs (R171); UI the
operation it is inside. With no turn written, IRQ goes first if it can move, then UI if it can, then
BUSIDLE (log 7). -/
def Obligations.AgentsFollowTheirControlState : Prop :=
  (∀ (s : State) (rest : List Turn), s.book.script = .agent .irq :: rest →
    (∀ l, s.sequencer = .io l → step s = exec .iocyc { s with book.script := rest }) ∧
    (∀ l, s.sequencer = .mem l → step s = exec .memcyc { s with book.script := rest }) ∧
    (s.sequencer = .idle → (s.edge.pendIo = true ∨ s.edge.pendMem = true) →
      step s = exec .dispatch { s with book.script := rest }) ∧
    (s.sequencer = .idle → s.edge.pendIo = false → s.edge.pendMem = false →
      step s = .next { s with book.script := rest })) ∧
  (∀ (s : State) (rest : List Turn), s.book.script = .agent .busIdle :: rest →
    (s.sequencer ≠ .idle → step s = .next { s with book.script := rest }) ∧
    (s.sequencer = .idle → s.idle = .ipoll → step s = exec .ipoll { s with book.script := rest }) ∧
    (s.sequencer = .idle → s.idle = .iack → step s = exec .iack { s with book.script := rest }) ∧
    (s.sequencer = .idle → s.idle = .ispin → step s = exec .ispin { s with book.script := rest }) ∧
    (s.sequencer = .idle → s.idle = .iresume →
      step s = exec .iresume { s with book.script := rest })) ∧
  (∀ (s : State) (rest : List Turn), s.book.script = .agent .ui :: rest →
    (s.host.activity = .between → step s = .next { s with book.script := rest }) ∧
    (s.host.activity = .waitingAck → step s = exec .pwait { s with book.script := rest }) ∧
    (∀ b i, s.host.activity = .clearing b i →
      step s = exec (.clear (b.setWidth 8)) { s with book.script := rest }) ∧
    (∀ cs, s.host.activity = .decoding cs →
      step s = exec (.hexDecode []) { s with book.script := rest }) ∧
    ((∃ cs n, s.host.activity = .reading cs n) ∨ (∃ b i, s.host.activity = .loading b i) →
      step s = exec (.load []) { s with book.script := rest }) ∧
    ((∃ b i, s.host.activity = .saving b i) ∨ (∃ i text, s.host.activity = .encoding i text) →
      step s = exec .save { s with book.script := rest })) ∧
  ∀ s : State, s.book.script = [] →
    ∃ a, step s = step { s with book.script := [.agent a] } ∧
      ((s.sequencer ≠ .idle ∨ s.edge.pendIo = true ∨ s.edge.pendMem = true) → a = .irq) ∧
      (s.sequencer = .idle → s.edge.pendIo = false → s.edge.pendMem = false →
        (s.host.activity = .between ∨ (s.host.activity = .waitingAck ∧ s.pause.ack = false) →
          a = .busIdle) ∧
        (¬(s.host.activity = .between ∨ (s.host.activity = .waitingAck ∧ s.pause.ack = false)) →
          a = .ui))

/-- R163: on every change the detector observes, a fall from 1 to 0 sets the latch and is recorded, a
rise or a level does nothing, and the level is remembered; so an environment's turn latches what it
makes fall (R70), and changes nothing else of the engine. The order of the two events, and that a
contention the turn begins is recorded with it, are the model's (logs 10, 14). -/
def Obligations.EnvironmentTurnLatchesFallingEdges : Prop :=
  ∀ (s : State) (c : EnvChange) (rest : List Turn), s.book.script = .env c :: rest →
    ∃ (t : State) (h : List Event),
      step s = .next t ∧
      t = { s with
        env := { mreqN := c.mreqN.getD s.env.mreqN, iorqN := c.iorqN.getD s.env.iorqN,
                 rdN := c.rdN.getD s.env.rdN, wrN := c.wrN.getD s.env.wrN,
                 a := c.a.getD s.env.a, dcpu := c.dcpu.getD s.env.dcpu,
                 dcpuDrv := c.dcpuDrv.getD s.env.dcpuDrv }
        edge := { pendIo := s.edge.pendIo || (s.edge.prevIorq == .high && t.env.iorqN == .low)
                  pendMem := s.edge.pendMem || (s.edge.prevMreq == .high && t.env.mreqN == .low)
                  prevIorq := t.env.iorqN, prevMreq := t.env.mreqN }
        book.script := rest
        book.hist := s.book.hist ++ h } ∧
      (.edge .io ∈ h ↔ s.edge.prevIorq = .high ∧ t.env.iorqN = .low) ∧
      (.edge .mem ∈ h ↔ s.edge.prevMreq = .high ∧ t.env.mreqN = .low) ∧
      (.contention ∈ h ↔ s.arb.mux = .dataOut ∧ s.arb.shMode = .output ∧ s.env.dcpuDrv = false ∧
        t.env.dcpuDrv = true) ∧
      h.length ≤ 3

/-- R98 and R99: what a CPU that samples its data bus gets, and that it changes nothing of the engine
(log 27 for the turn). -/
def Obligations.CpuSamplesTheResolvedBus : Prop :=
  ∀ (s : State) (rest : List Turn), s.book.script = .cpuSample :: rest →
    (s.arb.mux = .dataOut → s.arb.shMode = .output → s.env.dcpuDrv = false →
      step s = .next { s with book.script := rest, book.cpuLatch := s.arb.shOut }) ∧
    (¬(s.arb.mux = .dataOut ∧ s.arb.shMode = .output) → s.env.dcpuDrv = true →
      step s = .next { s with book.script := rest, book.cpuLatch := s.env.dcpu }) ∧
    (¬(s.arb.mux = .dataOut ∧ s.arb.shMode = .output) → s.env.dcpuDrv = false →
      step s = .next { s with book.script := rest, book.cpuLatch := Config.draw8 s.book.draws,
                              book.draws := s.book.draws + 1 }) ∧
    (s.arb.mux = .dataOut → s.arb.shMode = .output → s.env.dcpuDrv = true →
      step s = .next { s with book.script := rest, book.cpuLatch := Config.draw8 s.book.draws,
                              book.draws := s.book.draws + 1 })

/-! ### The mux arbiter -/

/-- R90: `SELP p` takes all six lines to `CtlEncode(p)` in one step and clears `settled`; it writes
nothing else. The words are R72's. -/
def Obligations.SelpRoutesOneChannel : Prop :=
  (ctlEncode .lowAddrIn = 0x36 ∧ ctlEncode .highAddrIn = 0x2D ∧ ctlEncode .dataIn = 0x1B ∧
    ctlEncode .dataOut = 0x3B) ∧
  ∀ s : State,
    exec .selpLowAddrIn s = .next { s with arb.mux := .lowAddrIn, arb.settled := false } ∧
    exec .selpHighAddrIn s = .next { s with arb.mux := .highAddrIn, arb.settled := false } ∧
    exec .selpDataIn s = .next { s with arb.mux := .dataIn, arb.settled := false } ∧
    ∃ t, exec .selpDataOut s = .next t ∧
      { t with book.hist := s.book.hist } = { s with arb.mux := .dataOut, arb.settled := false }

/-- `NEUT` (R91) deselects all channels, sets all directions high, clears `settled`, and ends a drive of
the data bus; `SHIN` (R92) releases the shared lines; `SETTLE k` (R93) sets `settled`, whatever its
duration. None of them writes anything else. That a settle is one step is decision D6 (log 26). -/
def Obligations.NeutShinSettleResults : Prop :=
  ctlEncode .neutral = 0x3F ∧
  ∀ s : State,
    exec .neut s = .next { s with
      arb.mux := .neutral, arb.settled := false
      book.hist := s.book.hist ++
        (if s.arb.mux = .dataOut ∧ s.arb.shMode = .output then [.release] else []) } ∧
    exec .shin s = .next { s with arb.shMode := .input } ∧
    ∀ k, exec (.settle k) s = .next { s with arb.settled := true }

/-- R94: `SHOUT v` presents `v` and takes the shared lines to `Out`; at M5a it is performed in the same
step as `SELP DataOut`, and `Drive(ea, v)` is emitted. -/
def Obligations.ShoutDrivesTheSharedLines : Prop :=
  (∀ (s : State) (v : Byte), ∃ t, exec (.shout v) s = .next t ∧
    { t with book.hist := s.book.hist } = { s with arb.shOut := v, arb.shMode := .output }) ∧
  ∀ s : State, s.sequencer = .mem .m5a → ∃ (t : State) (h : List Event), exec .memcyc s = .next t ∧
    { t with book.hist := s.book.hist } = { s with
      arb := { mux := .dataOut, shMode := .output, shOut := s.regs.data, settled := false }
      sequencer := .mem .m5b } ∧
    t.book.hist = s.book.hist ++ .drive s.regs.ea s.regs.data :: h

/-- When a drive and a contention are recorded (log 14): `SHOUT` records a drive when the Data channel
is routed outward, and each operation that begins an overlap of the engine's drive with the CPU's
records one contention (R99). -/
def Obligations.DrivesAndContentionsAreRecorded : Prop :=
  ∀ (s : State) (v : Byte),
    (∀ t, exec .selpDataOut s = .next t →
      t.book.hist = s.book.hist ++
        (if s.arb.shMode = .output ∧ s.env.dcpuDrv = true ∧ s.arb.mux ≠ .dataOut
          then [.contention] else [])) ∧
    (∀ t, exec (.shout v) s = .next t →
      t.book.hist = s.book.hist ++
        (if s.arb.mux = .dataOut then [.drive s.regs.ea v] else []) ++
        (if s.arb.mux = .dataOut ∧ s.env.dcpuDrv = true ∧ s.arb.shMode = .input
          then [.contention] else [])) ∧
    (s.sequencer = .mem .m5a → ∀ t, exec .memcyc s = .next t →
      t.book.hist = s.book.hist ++ [.drive s.regs.ea s.regs.data] ++
        (if s.env.dcpuDrv = true ∧ ¬(s.arb.mux = .dataOut ∧ s.arb.shMode = .output)
          then [.contention] else []))

/-- R95, R96: `SAMP r` takes the level of the shared lines at this instant once a settle has completed,
and an arbitrary byte else; the shared lines carry what each row of R96 says, an arbitrary byte where
nothing drives them; `ea` is formed as the high byte is sampled. An arbitrary byte is `Config.draw8` of
the counter `draws`, which has no value in Lean (log 5). With the engine's own pins driving, its byte
is read back when the Data channel is routed outward, and any byte otherwise, as decision D7 says over
R96's last row (log 15). -/
def Obligations.SampTakesTheSharedLines : Prop :=
  ∀ (s : State) (v : Byte) (k : Nat),
    (s.arb.settled = true ∧ s.arb.shMode = .output ∧ s.arb.mux = .dataOut ∧
      v = s.arb.shOut ∧ k = 0) ∨
    (s.arb.settled = true ∧ s.arb.shMode = .output ∧ s.arb.mux ≠ .dataOut ∧
      v = Config.draw8 s.book.draws ∧ k = 1) ∨
    (s.arb.settled = true ∧ s.arb.shMode = .input ∧ s.arb.mux = .lowAddrIn ∧
      v = s.env.a.extractLsb' 0 8 ∧ k = 0) ∨
    (s.arb.settled = true ∧ s.arb.shMode = .input ∧ s.arb.mux = .highAddrIn ∧
      v = s.env.a.extractLsb' 8 8 ∧ k = 0) ∨
    (s.arb.settled = true ∧ s.arb.shMode = .input ∧ s.arb.mux = .dataIn ∧ s.env.dcpuDrv = true ∧
      v = s.env.dcpu ∧ k = 0) ∨
    (s.arb.settled = true ∧ s.arb.shMode = .input ∧ s.arb.mux = .dataIn ∧ s.env.dcpuDrv = false ∧
      v = Config.draw8 s.book.draws ∧ k = 1) ∨
    (s.arb.settled = true ∧ s.arb.shMode = .input ∧
      (s.arb.mux = .neutral ∨ s.arb.mux = .dataOut) ∧ v = Config.draw8 s.book.draws ∧ k = 1) ∨
    (s.arb.settled = false ∧ v = Config.draw8 s.book.draws ∧ k = 1) →
    exec (.samp .addrLo) s = .next { s with
      regs.addrLo := v
      book.hist := s.book.hist ++ [.sample s.arb.mux v], book.draws := s.book.draws + k } ∧
    exec (.samp .addrHi) s = .next { s with
      regs.addrHi := v, regs.ea := v ++ s.regs.addrLo
      book.hist := s.book.hist ++ [.sample s.arb.mux v], book.draws := s.book.draws + k } ∧
    exec (.samp .data) s = .next { s with
      regs.data := v
      book.hist := s.book.hist ++ [.sample s.arb.mux v], book.draws := s.book.draws + k }

/-- R97: `TST L` reads the present levels of the lines named in one step, records a `Test` for each,
answers them, and writes nothing. -/
def Obligations.TstReadsPresentLevels : Prop :=
  ∀ (s : State) (l : LineSet), ∃ (t : State) (ls : List CtlLine), exec (.tst l) s = .next t ∧
    { t with book.hist := s.book.hist, host.ret := s.host.ret } = s ∧
    ls.Nodup ∧
    (.mreq ∈ ls ↔ l.mreq = true) ∧ (.iorq ∈ ls ↔ l.iorq = true) ∧
    (.rd ∈ ls ↔ l.rd = true) ∧ (.wr ∈ ls ↔ l.wr = true) ∧
    ∃ level : CtlLine → Level,
      level .mreq = s.env.mreqN ∧ level .iorq = s.env.iorqN ∧ level .rd = s.env.rdN ∧
      level .wr = s.env.wrN ∧
      t.book.hist = s.book.hist ++ ls.map (fun x => .test x (level x)) ∧
      t.host.ret = .levels (ls.map fun x => (x, level x))

/-- Frame of the ten micro-operations: only the arbiter (`SELP`, `NEUT`, `SETTLE`, `SHIN`, `SHOUT`), the
sampled register and `ea` (`SAMP`), the answer (`TST`) and the bookkeeping change; every byte of
memory reads as before. -/
def Obligations.MicroOperationFrame : Prop :=
  ∀ (s t : State) (i : Instr),
    (i = .selpLowAddrIn ∨ i = .selpHighAddrIn ∨ i = .selpDataIn ∨ i = .selpDataOut ∨ i = .neut ∨
      (∃ k, i = .settle k) ∨ i = .shin ∨ (∃ v, i = .shout v) ∨ (∃ r, i = .samp r) ∨
      ∃ l, i = .tst l) →
    exec i s = .next t →
    t.env = s.env ∧ t.sequencer = s.sequencer ∧ t.edge = s.edge ∧ t.pause = s.pause ∧
    t.idle = s.idle ∧ t.store.curBank = s.store.curBank ∧ t.store.name = s.store.name ∧
    BankKept s t ∧ ScratchKept s t ∧ { t.host with ret := s.host.ret } = s.host ∧
    ((∀ l, i ≠ .tst l) → t.host.ret = s.host.ret) ∧
    ((∀ r, i ≠ .samp r) → t.regs = s.regs) ∧ t.regs.kind = s.regs.kind ∧
    (i ≠ .samp .addrLo → t.regs.addrLo = s.regs.addrLo) ∧
    (i ≠ .samp .addrHi → t.regs.addrHi = s.regs.addrHi ∧ t.regs.ea = s.regs.ea) ∧
    (i ≠ .samp .data → t.regs.data = s.regs.data) ∧
    ((∃ r, i = .samp r) ∨ (∃ l, i = .tst l) → t.arb = s.arb) ∧
    (i ≠ .shin → (∀ v, i ≠ .shout v) → t.arb.shMode = s.arb.shMode) ∧
    ((∀ v, i ≠ .shout v) → t.arb.shOut = s.arb.shOut) ∧
    (i = .shin ∨ (∃ v, i = .shout v) ∨ (∃ k, i = .settle k) → t.arb.mux = s.arb.mux) ∧
    t.book.script = s.book.script ∧ t.book.cpuLatch = s.book.cpuLatch

/-! ### Edges, dispatch, return -/

/-- R163, and R70's word: the detector latches a fall of its line, records it and remembers the level;
a rise or a level does nothing more; `TRIG = 0b11` performs both, `0b00` neither. -/
def Obligations.EdgeOperationsLatchFalls : Prop :=
  ∀ s : State,
    exec (.edgeIo false) s = .next { s with
      edge.pendIo := s.edge.pendIo || (s.edge.prevIorq == .high && s.env.iorqN == .low)
      edge.prevIorq := s.env.iorqN
      book.hist := s.book.hist ++
        (if s.edge.prevIorq = .high ∧ s.env.iorqN = .low then [.edge .io] else []) } ∧
    exec .edgeMem s = .next { s with
      edge.pendMem := s.edge.pendMem || (s.edge.prevMreq == .high && s.env.mreqN == .low)
      edge.prevMreq := s.env.mreqN
      book.hist := s.book.hist ++
        (if s.edge.prevMreq = .high ∧ s.env.mreqN = .low then [.edge .mem] else []) } ∧
    (∀ t u, exec .edgeMem s = .next t → exec (.edgeIo false) t = .next u →
      exec (.edgeIo true) s = .next u) ∧
    ∀ rest, s.book.script = .line [0x02, 0b00] :: rest → step s = .next { s with book.script := rest }

/-- R166, R167, R168: a handler is entered when none runs and a latch is set, whatever the PauseState and
the lines; its latch is cleared, the sequencer stands at its first label, nothing is saved, and the
entry is recorded. With both set the order is free, and the other latch stays set (log 6). The I/O
handler's entry also sets `kind` (R101). -/
def Obligations.DispatchEntersAPendingHandler : Prop :=
  ∀ s : State, s.sequencer = .idle →
    (s.edge.pendIo = true → s.edge.pendMem = false →
      exec .dispatch s = .next { s with
        edge.pendIo := false, sequencer := .io .io0, regs.kind := .ioCycle
        book.hist := s.book.hist ++ [.enter .io] }) ∧
    (s.edge.pendIo = false → s.edge.pendMem = true →
      exec .dispatch s = .next { s with
        edge.pendMem := false, sequencer := .mem .m0, book.hist := s.book.hist ++ [.enter .mem] }) ∧
    (s.edge.pendIo = true → s.edge.pendMem = true →
      exec .dispatch s = .next
        (if Config.ioFirst s.book.draws then
          { s with edge.pendIo := false, sequencer := .io .io0, regs.kind := .ioCycle
                   book.hist := s.book.hist ++ [.enter .io], book.draws := s.book.draws + 1 }
        else
          { s with edge.pendMem := false, sequencer := .mem .m0
                   book.hist := s.book.hist ++ [.enter .mem], book.draws := s.book.draws + 1 }))

/-- A turn in which the operation named is not enabled passes without effect (logs 12, 13): a dispatch
while a handler runs (R169) or with no latch set, a handler that is neither running nor pending, the
outcome of a run that cannot stand here, a return with no handler (log 34), an idle-loop operation
while a handler runs (R171) or out of its turn, a host operation while UI is inside another (log 12),
the outcome of a run that would end otherwise (log 13), a character row outside its parser states or
after the decode has ended (log 29). -/
def Obligations.TurnsThatCannotActPass : Prop :=
  ∀ s : State,
    (s.sequencer ≠ .idle ∨ (s.edge.pendIo = false ∧ s.edge.pendMem = false) →
      exec .dispatch s = .next s) ∧
    ((∃ l, s.sequencer = .mem l) ∨ (s.sequencer = .idle ∧ s.edge.pendIo = false) →
      exec .iocyc s = .next s) ∧
    ((∃ l, s.sequencer = .io l) ∨ (s.sequencer = .idle ∧ s.edge.pendMem = false) →
      exec .memcyc s = .next s) ∧
    (s.sequencer ≠ .idle ∨ s.edge.pendIo = false → ∀ m r c : Bool,
      exec (.iowrMem m r) s = .next s ∧ exec (.iowrCon m r) s = .next s ∧
      exec (.ioNowr m r c) s = .next s) ∧
    (s.sequencer ≠ .idle ∨ s.edge.pendMem = false → ∀ r w c : Bool,
      exec (.memrd w c) s = .next s ∧ exec (.memAbortRdInactive w c) s = .next s ∧
      exec (.memAbortMreqInactive r w c) s = .next s) ∧
    (∀ m r c : Bool,
      (s.env.iorqN = .high → exec (.iowrMem m r) s = .next s ∧ exec (.iowrCon m r) s = .next s) ∧
      (s.env.iorqN = .low → exec (.ioNowr m r c) s = .next s) ∧
      (s.env.a = 0x0040 → exec (.iowrMem m r) s = .next s) ∧
      (s.env.a ≠ 0x0040 → exec (.iowrCon m r) s = .next s)) ∧
    (∀ r w c : Bool,
      (s.env.mreqN = .high →
        exec (.memrd w c) s = .next s ∧ exec (.memAbortRdInactive w c) s = .next s) ∧
      (s.env.mreqN = .low → exec (.memAbortMreqInactive r w c) s = .next s) ∧
      (s.env.rdN = .high → exec (.memrd w c) s = .next s) ∧
      (s.env.rdN = .low → exec (.memAbortRdInactive w c) s = .next s)) ∧
    (s.sequencer = .idle → exec .iret s = .next s) ∧
    (s.sequencer ≠ .idle ∨ s.idle ≠ .ipoll → exec .ipoll s = .next s) ∧
    (s.sequencer ≠ .idle ∨ s.idle ≠ .iack → exec .iack s = .next s) ∧
    (s.sequencer ≠ .idle ∨ s.idle ≠ .ispin → exec .ispin s = .next s) ∧
    (s.sequencer ≠ .idle ∨ s.idle ≠ .iresume → exec .iresume s = .next s) ∧
    (s.host.activity ≠ .between → ∀ (b v : Byte) (a : Addr) (n : Int) (text : List Byte),
      exec (.read b a) s = .next s ∧ exec (.write b a v) s = .next s ∧
      exec .curbank s = .next s ∧ exec (.setbank n) s = .next s ∧ exec (.remap a) s = .next s ∧
      exec (.hexEncode text) s = .next s ∧ exec .preq s = .next s ∧ exec .prel s = .next s ∧
      (s.host.activity ≠ .waitingAck → exec .pwait s = .next s) ∧
      ((∀ i, s.host.activity ≠ .clearing (b.setWidth 3) i) ∨ 7 < b.toNat →
        exec (.clear b) s = .next s) ∧
      ((∀ cs, s.host.activity ≠ .decoding cs) → exec (.hexDecode text) s = .next s) ∧
      ((∀ cs k, s.host.activity ≠ .reading cs k) → (∀ x i, s.host.activity ≠ .loading x i) →
        exec (.load text) s = .next s) ∧
      ((∀ x i, s.host.activity ≠ .saving x i) → (∀ i cs, s.host.activity ≠ .encoding i cs) →
        exec .save s = .next s) ∧
      ∀ p c, exec (decodeChar p c) s = .next s) ∧
    (s.host.dec.status ≠ .running → ∀ p c, exec (decodeChar p c) s = .next s) ∧
    (s.host.dec.pstate ≠ .inComment → ∀ c, exec (.chAnyComment c) s = .next s) ∧
    (s.host.dec.pstate ≠ .normal → ∀ (d : BitVec 4) (h : BitVec 3) (c : Byte),
      exec (.chHexNormalDigit d) s = .next s ∧ exec (.chHexNormalUpper h) s = .next s ∧
      exec (.chHexNormalLower h) s = .next s ∧ exec (.chBadNormal c) s = .next s) ∧
    (s.host.dec.pstate ≠ .inOrigin → ∀ (d : BitVec 4) (h : BitVec 3) (c : Byte),
      exec (.chHexOriginDigit d) s = .next s ∧ exec (.chHexOriginUpper h) s = .next s ∧
      exec (.chHexOriginLower h) s = .next s ∧ exec (.chBadOrigin c) s = .next s)

/-- R170, R100: `IRET` leaves the handler, records it and restores nothing; a handler returns at IO4, at
the abort at M2 and at M5d only; and where the arbiter is as the handlers keep it (`arbiterFits`, part
of the invariant), every return leaves the lines neutral and the shared lines released. -/
def Obligations.ReturnAtFixedExitsLeavesLinesNeutral : Prop :=
  (∀ (s : State) (l : IoLabel), s.sequencer = .io l →
    exec .iret s = .next { s with sequencer := .idle, book.hist := s.book.hist ++ [.exit .io] } ∧
    ∃ t, exec .iocyc s = .next t ∧ (t.sequencer = .idle ↔ l = .io4) ∧
      (t.sequencer = .idle → .exit .io ∈ t.book.hist) ∧
      (arbiterFits s.sequencer s.arb = true → t.sequencer = .idle →
        t.arb.mux = .neutral ∧ t.arb.shMode = .input)) ∧
  ∀ (s : State) (l : MemLabel), s.sequencer = .mem l →
    exec .iret s = .next { s with sequencer := .idle, book.hist := s.book.hist ++ [.exit .mem] } ∧
    ∃ t, exec .memcyc s = .next t ∧
      (t.sequencer = .idle ↔
        l = .m5d ∨ (l = .m2 ∧ (s.env.mreqN = .high ∨ s.env.rdN = .high))) ∧
      (t.sequencer = .idle → .exit .mem ∈ t.book.hist) ∧
      (arbiterFits s.sequencer s.arb = true → t.sequencer = .idle →
        t.arb.mux = .neutral ∧ t.arb.shMode = .input)

/-- Frame of `EDGE_IO`, `EDGE_MEM`, `DISPATCH`, `IRET`: no line, register but `kind`, or byte of memory
changes, no pause flag, and nothing of the host. -/
def Obligations.InterruptOperationFrame : Prop :=
  ∀ (s t : State) (i : Instr),
    ((∃ m, i = .edgeIo m) ∨ i = .edgeMem ∨ i = .dispatch ∨ i = .iret) → exec i s = .next t →
    t.env = s.env ∧ t.arb = s.arb ∧ { t.regs with kind := s.regs.kind } = s.regs ∧
    t.store.curBank = s.store.curBank ∧ t.store.name = s.store.name ∧ BankKept s t ∧
    ScratchKept s t ∧ t.pause = s.pause ∧ t.idle = s.idle ∧ t.host = s.host ∧
    t.book.script = s.book.script ∧ t.book.cpuLatch = s.book.cpuLatch ∧
    (i ≠ .dispatch → t.regs.kind = s.regs.kind ∧ t.book.draws = s.book.draws) ∧
    (i = .dispatch ∨ i = .iret →
      t.edge.prevIorq = s.edge.prevIorq ∧ t.edge.prevMreq = s.edge.prevMreq) ∧
    (i = .iret → t.edge = s.edge) ∧
    ((∃ m, i = .edgeIo m) ∨ i = .edgeMem → t.sequencer = s.sequencer)

/-! ### The handlers -/

/-- The first performance of `IOCYC` or `MEMCYC` with no handler running is the entry (R101, R109), when
the latch is set; the first label holds no micro-operation of its own, so the handler's next
performance moves on to IO1a or M1a (logs 6, 9). -/
def Obligations.HandlersEnterAtTheirFirstLabel : Prop :=
  ∀ s : State,
    (s.sequencer = .idle → s.edge.pendIo = true → exec .iocyc s = .next { s with
      edge.pendIo := false, sequencer := .io .io0, regs.kind := .ioCycle
      book.hist := s.book.hist ++ [.enter .io] }) ∧
    (s.sequencer = .idle → s.edge.pendMem = true → exec .memcyc s = .next { s with
      edge.pendMem := false, sequencer := .mem .m0, book.hist := s.book.hist ++ [.enter .mem] }) ∧
    (s.sequencer = .io .io0 → exec .iocyc s = .next { s with sequencer := .io .io1a }) ∧
    (s.sequencer = .mem .m0 → exec .memcyc s = .next { s with sequencer := .mem .m1a })

/-- R102, R103: the I/O handler selects the low address, settles, releases the lines and samples them,
then selects the high address directly, settles and samples, which forms `ea`. -/
def Obligations.IoHandlerSamplesTheAddress : Prop :=
  ∀ s : State,
    (s.sequencer = .io .io1a → exec .iocyc s = .next { s with
      arb.mux := .lowAddrIn, arb.settled := false, sequencer := .io .io1b }) ∧
    (s.sequencer = .io .io1b → exec .iocyc s = .next { s with
      arb.settled := true, sequencer := .io .io1c }) ∧
    (s.sequencer = .io .io1c → exec .iocyc s = .next { s with
      arb.shMode := .input, sequencer := .io .io1d }) ∧
    (s.sequencer = .io .io1d → s.arb.mux = .lowAddrIn → s.arb.shMode = .input →
      s.arb.settled = true → exec .iocyc s = .next { s with
        regs.addrLo := s.env.a.extractLsb' 0 8, sequencer := .io .io2a
        book.hist := s.book.hist ++ [.sample .lowAddrIn (s.env.a.extractLsb' 0 8)] }) ∧
    (s.sequencer = .io .io1d → ∀ t, exec (.samp .addrLo) s = .next t →
      exec .iocyc s = .next { t with sequencer := .io .io2a }) ∧
    (s.sequencer = .io .io2a → exec .iocyc s = .next { s with
      arb.mux := .highAddrIn, arb.settled := false, sequencer := .io .io2b }) ∧
    (s.sequencer = .io .io2b → exec .iocyc s = .next { s with
      arb.settled := true, sequencer := .io .io2c }) ∧
    (s.sequencer = .io .io2c → s.arb.mux = .highAddrIn → s.arb.shMode = .input →
      s.arb.settled = true → exec .iocyc s = .next { s with
        regs.addrHi := s.env.a.extractLsb' 8 8
        regs.ea := s.env.a.extractLsb' 8 8 ++ s.regs.addrLo, sequencer := .io .io3
        book.hist := s.book.hist ++ [.sample .highAddrIn (s.env.a.extractLsb' 8 8)] }) ∧
    (s.sequencer = .io .io2c → ∀ t, exec (.samp .addrHi) s = .next t →
      exec .iocyc s = .next { t with sequencer := .io .io3 })

/-- R104, R105: IO3 re-samples `IORQ_n` alone: low is a write, and the Data phase follows; high is none,
and the handler goes to its exit. The Data phase samples the CPU's byte, or an arbitrary one if the CPU
does not drive. -/
def Obligations.IoHandlerTestsDirectionAndSamplesData : Prop :=
  ∀ s : State,
    (s.sequencer = .io .io3 → s.env.iorqN = .low → exec .iocyc s = .next { s with
      sequencer := .io .io3a1, book.hist := s.book.hist ++ [.test .iorq .low] }) ∧
    (s.sequencer = .io .io3 → s.env.iorqN = .high → exec .iocyc s = .next { s with
      sequencer := .io .io4, book.hist := s.book.hist ++ [.test .iorq .high, .noWrite] }) ∧
    (s.sequencer = .io .io3a1 → exec .iocyc s = .next { s with
      arb.mux := .dataIn, arb.settled := false, sequencer := .io .io3a2 }) ∧
    (s.sequencer = .io .io3a2 → exec .iocyc s = .next { s with
      arb.settled := true, sequencer := .io .io3a3 }) ∧
    (s.sequencer = .io .io3a3 → s.arb.mux = .dataIn → s.arb.shMode = .input →
      s.arb.settled = true → s.env.dcpuDrv = true → exec .iocyc s = .next { s with
        regs.data := s.env.dcpu, sequencer := .io .io3bc
        book.hist := s.book.hist ++ [.sample .dataIn s.env.dcpu] }) ∧
    (s.sequencer = .io .io3a3 → s.arb.mux = .dataIn → s.arb.shMode = .input →
      s.arb.settled = true → s.env.dcpuDrv = false → exec .iocyc s = .next { s with
        regs.data := Config.draw8 s.book.draws, sequencer := .io .io3bc
        book.hist := s.book.hist ++ [.sample .dataIn (Config.draw8 s.book.draws)]
        book.draws := s.book.draws + 1 }) ∧
    (s.sequencer = .io .io3a3 → ∀ t, exec (.samp .data) s = .next t →
      exec .iocyc s = .next { t with sequencer := .io .io3bc })

/-- R106, R107, R108: at the console port, all 16 bits compared, the byte goes to the console and to no
bank; elsewhere exactly one byte of the current bank is written, at `ea mod 32768`; then `NEUT` and
`IRET`. -/
def Obligations.IoHandlerWritesConsoleOrBankThenExits : Prop :=
  ∀ s : State,
    (s.sequencer = .io .io3bc → s.regs.ea = 0x0040 → exec .iocyc s = .next { s with
      sequencer := .io .io4, book.hist := s.book.hist ++ [.console s.regs.data] }) ∧
    (s.sequencer = .io .io3bc → s.regs.ea ≠ 0x0040 → ∃ t, exec .iocyc s = .next t ∧
      { t with store.bank := s.store.bank } = { s with
        sequencer := .io .io4
        book.hist := s.book.hist ++
          [.bankWrite s.store.curBank (BitVec.ofNat 15 (s.regs.ea.toNat % 32768)) s.regs.data] } ∧
      bankByte t s.store.curBank (BitVec.ofNat 15 (s.regs.ea.toNat % 32768)) = s.regs.data ∧
      BankKeptBut s.store.curBank (BitVec.ofNat 15 (s.regs.ea.toNat % 32768)) s t) ∧
    (s.sequencer = .io .io4 → exec .iocyc s = .next { s with
      arb.mux := .neutral, arb.settled := false, sequencer := .idle
      book.hist := s.book.hist ++
        (if s.arb.mux = .dataOut ∧ s.arb.shMode = .output then [.release] else []) ++ [.exit .io] })

/-- R110, R112: the memory handler samples each half of the address in its own phase and returns to
neutral after each. -/
def Obligations.MemoryHandlerSamplesTheAddress : Prop :=
  ∀ s : State,
    (s.sequencer = .mem .m1a → exec .memcyc s = .next { s with
      arb.mux := .lowAddrIn, arb.settled := false, sequencer := .mem .m1b }) ∧
    (s.sequencer = .mem .m1b → exec .memcyc s = .next { s with
      arb.settled := true, sequencer := .mem .m1c }) ∧
    (s.sequencer = .mem .m1c → s.arb.mux = .lowAddrIn → s.arb.shMode = .input →
      s.arb.settled = true → exec .memcyc s = .next { s with
        regs.addrLo := s.env.a.extractLsb' 0 8, sequencer := .mem .m1d
        book.hist := s.book.hist ++ [.sample .lowAddrIn (s.env.a.extractLsb' 0 8)] }) ∧
    (s.sequencer = .mem .m1c → ∀ t, exec (.samp .addrLo) s = .next t →
      exec .memcyc s = .next { t with sequencer := .mem .m1d }) ∧
    (s.sequencer = .mem .m1d → exec .memcyc s = .next { s with
      arb.mux := .neutral, arb.settled := false, sequencer := .mem .m1e
      book.hist := s.book.hist ++
        (if s.arb.mux = .dataOut ∧ s.arb.shMode = .output then [.release] else []) }) ∧
    (s.sequencer = .mem .m1e → exec .memcyc s = .next { s with
      arb.shMode := .input, sequencer := .mem .m2 }) ∧
    (s.sequencer = .mem .m3a → exec .memcyc s = .next { s with
      arb.mux := .highAddrIn, arb.settled := false, sequencer := .mem .m3b }) ∧
    (s.sequencer = .mem .m3b → exec .memcyc s = .next { s with
      arb.settled := true, sequencer := .mem .m3c }) ∧
    (s.sequencer = .mem .m3c → s.arb.mux = .highAddrIn → s.arb.shMode = .input →
      s.arb.settled = true → exec .memcyc s = .next { s with
        regs.addrHi := s.env.a.extractLsb' 8 8
        regs.ea := s.env.a.extractLsb' 8 8 ++ s.regs.addrLo, sequencer := .mem .m3d
        book.hist := s.book.hist ++ [.sample .highAddrIn (s.env.a.extractLsb' 8 8)] }) ∧
    (s.sequencer = .mem .m3c → ∀ t, exec (.samp .addrHi) s = .next t →
      exec .memcyc s = .next { t with sequencer := .mem .m3d }) ∧
    (s.sequencer = .mem .m3d → exec .memcyc s = .next { s with
      arb.mux := .neutral, arb.settled := false, sequencer := .mem .m4
      book.hist := s.book.hist ++
        (if s.arb.mux = .dataOut ∧ s.arb.shMode = .output then [.release] else []) })

/-- R111: M2 re-checks both lines in one step: if either is inactive the handler returns, silently, with
nothing driven, read or written; else it goes on. Nothing is said of the order of the two `Test`
events. -/
def Obligations.MemoryHandlerAbortsWhenALineIsInactive : Prop :=
  ∀ s : State, s.sequencer = .mem .m2 → ∃ tests : List Event,
    (tests = [.test .mreq s.env.mreqN, .test .rd s.env.rdN] ∨
      tests = [.test .rd s.env.rdN, .test .mreq s.env.mreqN]) ∧
    ((s.env.mreqN = .high ∨ s.env.rdN = .high) → exec .memcyc s = .next { s with
      regs.kind := .memUnserviced, sequencer := .idle
      book.hist := s.book.hist ++ tests ++ [.abort s.regs.addrLo, .exit .mem] }) ∧
    (s.env.mreqN = .low → s.env.rdN = .low → exec .memcyc s = .next { s with
      regs.kind := .memRead, sequencer := .mem .m3a, book.hist := s.book.hist ++ tests })

/-- R113, R114: M4 reads the current bank at `ea mod 32768`; M5a drives the byte, M5b settles, M5c
returns to neutral and ends the drive, M5d releases the lines and returns. That the overlap with a
driving CPU is recorded at M5a, once, is the model's (log 14). -/
def Obligations.MemoryHandlerReadsAndDrives : Prop :=
  ∀ s : State,
    (s.sequencer = .mem .m4 → ∀ v,
      v = bankByte s s.store.curBank (BitVec.ofNat 15 (s.regs.ea.toNat % 32768)) →
      exec .memcyc s = .next { s with
        regs.data := v, sequencer := .mem .m5a
        book.hist := s.book.hist ++
          [.bankRead s.store.curBank (BitVec.ofNat 15 (s.regs.ea.toNat % 32768)) v] }) ∧
    (s.sequencer = .mem .m5a → ∃ (t : State) (h : List Event), exec .memcyc s = .next t ∧
      t = { s with
        arb := { mux := .dataOut, shMode := .output, shOut := s.regs.data, settled := false }
        sequencer := .mem .m5b
        book.hist := s.book.hist ++ .drive s.regs.ea s.regs.data :: h } ∧
      (s.env.dcpuDrv = false → h = [])) ∧
    (s.sequencer = .mem .m5b → exec .memcyc s = .next { s with
      arb.settled := true, sequencer := .mem .m5c }) ∧
    (s.sequencer = .mem .m5c → exec .memcyc s = .next { s with
      arb.mux := .neutral, arb.settled := false, sequencer := .mem .m5d
      book.hist := s.book.hist ++
        (if s.arb.mux = .dataOut ∧ s.arb.shMode = .output then [.release] else []) }) ∧
    (s.sequencer = .mem .m5d → exec .memcyc s = .next { s with
      arb.shMode := .input, sequencer := .idle, book.hist := s.book.hist ++ [.exit .mem] })

/-- The outcomes of a whole I/O run, the cycle's lines held from entry to return (R75; that a row stands
for such a run is log 13). A write stores the CPU's byte, or an arbitrary one if it drives none, in the
current bank at `A mod 32768`, or sends it to the console at 0x0040; without a write indicated nothing
is stored. -/
def Obligations.IoRunOutcomes : Prop :=
  ∀ (s : State) (m r c : Bool) (v : Byte) (k : Nat),
    s.sequencer = .idle → s.edge.pendIo = true →
    ((s.env.dcpuDrv = true ∧ v = s.env.dcpu ∧ k = 0) ∨
      (s.env.dcpuDrv = false ∧ v = Config.draw8 s.book.draws ∧ k = 1)) →
    let lo := s.env.a.extractLsb' 0 8
    let hi := s.env.a.extractLsb' 8 8
    let idx := BitVec.ofNat 15 (s.env.a.toNat % 32768)
    (s.env.iorqN = .low → s.env.a ≠ 0x0040 → ∃ t, exec (.iowrMem m r) s = .next t ∧
      { t with store.bank := s.store.bank } = { s with
        arb := { s.arb with mux := .neutral, shMode := .input, settled := false }
        edge.pendIo := false
        regs := { addrLo := lo, addrHi := hi, ea := s.env.a, data := v, kind := .ioCycle }
        book.draws := s.book.draws + k
        book.hist := s.book.hist ++
          [.enter .io, .sample .lowAddrIn lo, .sample .highAddrIn hi, .test .iorq .low,
           .sample .dataIn v, .bankWrite s.store.curBank idx v, .exit .io] } ∧
      bankByte t s.store.curBank idx = v ∧ BankKeptBut s.store.curBank idx s t) ∧
    (s.env.iorqN = .low → s.env.a = 0x0040 → exec (.iowrCon m r) s = .next { s with
        arb := { s.arb with mux := .neutral, shMode := .input, settled := false }
        edge.pendIo := false
        regs := { addrLo := lo, addrHi := hi, ea := s.env.a, data := v, kind := .ioCycle }
        book.draws := s.book.draws + k
        book.hist := s.book.hist ++
          [.enter .io, .sample .lowAddrIn lo, .sample .highAddrIn hi, .test .iorq .low,
           .sample .dataIn v, .console v, .exit .io] }) ∧
    (s.env.iorqN = .high → exec (.ioNowr m r c) s = .next { s with
        arb := { s.arb with mux := .neutral, shMode := .input, settled := false }
        edge.pendIo := false
        regs := { s.regs with addrLo := lo, addrHi := hi, ea := s.env.a, kind := .ioCycle }
        book.hist := s.book.hist ++
          [.enter .io, .sample .lowAddrIn lo, .sample .highAddrIn hi, .test .iorq .high,
           .noWrite, .exit .io] })

/-- The outcomes of a whole memory run, the cycle's lines held from entry to return (R75; log 13). A
read drives the current bank's byte at `A mod 32768`; an aborted cycle samples the low address byte and
does nothing else. No run changes a bank byte (R116). That the two `Test` events of M2 stand in the
order MREQ_n, RD_n is the model's (log 16), as is where a contention's event stands (log 14). -/
def Obligations.MemoryRunOutcomes : Prop :=
  ∀ (s : State) (r w c : Bool),
    s.sequencer = .idle → s.edge.pendMem = true → s.arb.shMode = .input →
    let lo := s.env.a.extractLsb' 0 8
    let hi := s.env.a.extractLsb' 8 8
    let idx := BitVec.ofNat 15 (s.env.a.toNat % 32768)
    let v := bankByte s s.store.curBank idx
    (s.env.mreqN = .low → s.env.rdN = .low → exec (.memrd w c) s = .next { s with
        arb := { mux := .neutral, shMode := .input, shOut := v, settled := false }
        edge.pendMem := false
        regs := { addrLo := lo, addrHi := hi, ea := s.env.a, data := v, kind := .memRead }
        book.hist := s.book.hist ++
          [.enter .mem, .sample .lowAddrIn lo, .test .mreq .low, .test .rd .low,
           .sample .highAddrIn hi, .bankRead s.store.curBank idx v, .drive s.env.a v] ++
          (if s.env.dcpuDrv = true then [.contention] else []) ++ [.release, .exit .mem] }) ∧
    (s.env.mreqN = .low → s.env.rdN = .high → exec (.memAbortRdInactive w c) s = .next { s with
        arb.mux := .neutral, arb.settled := false, edge.pendMem := false
        regs := { s.regs with addrLo := lo, kind := .memUnserviced }
        book.hist := s.book.hist ++
          [.enter .mem, .sample .lowAddrIn lo, .test .mreq .low, .test .rd .high, .abort lo,
           .exit .mem] }) ∧
    (s.env.mreqN = .high → exec (.memAbortMreqInactive r w c) s = .next { s with
        arb.mux := .neutral, arb.settled := false, edge.pendMem := false
        regs := { s.regs with addrLo := lo, kind := .memUnserviced }
        book.hist := s.book.hist ++
          [.enter .mem, .sample .lowAddrIn lo, .test .mreq .high, .test .rd s.env.rdN, .abort lo,
           .exit .mem] })

/-- R184, R169: from any label a handler's next micro-operation completes and brings it nearer its end,
which is at most 14 or 16 away (R30); no step waits for a line; and no operation but the handler's own
and `IRET` moves the sequencer of a running handler, so there is no nesting. -/
def Obligations.HandlersRunToCompletionWithoutNesting : Prop :=
  (∀ (s : State) (l : IoLabel), s.sequencer = .io l → ∃ t, exec .iocyc s = .next t ∧
    stepsLeft t.sequencer < stepsLeft s.sequencer ∧ stepsLeft s.sequencer ≤ 14) ∧
  (∀ (s : State) (l : MemLabel), s.sequencer = .mem l → ∃ t, exec .memcyc s = .next t ∧
    stepsLeft t.sequencer < stepsLeft s.sequencer ∧ stepsLeft s.sequencer ≤ 16) ∧
  ∀ (s t : State) (i : Instr), s.sequencer ≠ .idle → i ≠ .iocyc → i ≠ .memcyc → i ≠ .iret →
    exec i s = .next t → t.sequencer = s.sequencer

/-- R159, R185: the interrupt mechanism, the handlers, their outcomes and their micro-operations do the
same in every PauseState, and change neither pause flag. -/
def Obligations.PauseDoesNotGateTheHandlers : Prop :=
  ∀ (s t : State) (p : PauseFlags) (i : Instr),
    (i = .dispatch ∨ i = .iocyc ∨ i = .memcyc ∨ i = .iret ∨ (∃ m, i = .edgeIo m) ∨ i = .edgeMem ∨
      (∃ w c, i = .memrd w c) ∨ (∃ w c, i = .memAbortRdInactive w c) ∨
      (∃ r w c, i = .memAbortMreqInactive r w c) ∨ (∃ m r, i = .iowrMem m r) ∨
      (∃ m r, i = .iowrCon m r) ∨ (∃ m r c, i = .ioNowr m r c)) →
    exec i s = .next t →
    t.pause = s.pause ∧ exec i { s with pause := p } = .next { t with pause := p }

/-- Frame of the handlers and of their outcomes: no environment input, current bank, name, scratch byte,
pause flag or host component changes, and of the bank at most the byte of the current bank that the I/O
handler stores to: at IO3bc the one at `ea`, in `IOWR_MEM` the one at `A`, never one in a memory cycle. -/
def Obligations.HandlerFrame : Prop :=
  ∀ (s t : State) (i : Instr),
    (i = .iocyc ∨ i = .memcyc ∨ (∃ w c, i = .memrd w c) ∨ (∃ w c, i = .memAbortRdInactive w c) ∨
      (∃ r w c, i = .memAbortMreqInactive r w c) ∨ (∃ m r, i = .iowrMem m r) ∨
      (∃ m r, i = .iowrCon m r) ∨ (∃ m r c, i = .ioNowr m r c)) →
    exec i s = .next t →
    t.env = s.env ∧ t.store.curBank = s.store.curBank ∧ t.store.name = s.store.name ∧
    ScratchKept s t ∧ t.pause = s.pause ∧ t.idle = s.idle ∧ t.host = s.host ∧
    t.edge.prevIorq = s.edge.prevIorq ∧ t.edge.prevMreq = s.edge.prevMreq ∧
    t.book.script = s.book.script ∧ t.book.cpuLatch = s.book.cpuLatch ∧
    (i = .iocyc → s.sequencer = .io .io3bc →
      BankKeptBut s.store.curBank (bankIdx s.regs.ea) s t) ∧
    (i ≠ .iocyc ∨ s.sequencer ≠ .io .io3bc → (∀ m r, i ≠ .iowrMem m r) → BankKept s t) ∧
    ((∃ m r, i = .iowrMem m r) →
      BankKeptBut s.store.curBank (bankIdx s.env.a) s t)

/-! ### The bank store -/

/-- R118, R119: `BankRead` answers the byte at `a mod 32768` and changes nothing else; `BankWrite` writes
exactly that one byte, touches no name, and records it. -/
def Obligations.BankAccessorsReadAndWriteOneByte : Prop :=
  ∀ (s : State) (b : BankNumber) (a : Addr) (v : Byte),
    let idx := BitVec.ofNat 15 (a.toNat % 32768)
    exec (.bankRead b a) s = .next { s with host.ret := .byte (bankByte s b idx) } ∧
    ∃ t, exec (.bankWrite b a v) s = .next t ∧
      { t with store.bank := s.store.bank } =
        { s with book.hist := s.book.hist ++ [.bankWrite b idx v] } ∧
      bankByte t b idx = v ∧ BankKeptBut b idx s t ∧
      exec (.bankRead b a) t = .next { t with host.ret := .byte v }

/-- R120, R121, and R117's decoder: the decoder gives `hi || lo`, the compare with 0x0040 on all 16 bits
and the index modulo 32768 (decision D5); a host's `read` answers the byte, its `write` stores it, for
banks 0 to 7; `read`, `write` and `clear` of any other bank are refused (R125, decision D16). -/
def Obligations.HostReadsAndWritesNamedBanks : Prop :=
  (∀ lo hi : Byte, addressDecode lo hi =
    (hi ++ lo, decide (hi ++ lo = 0x0040#16), BitVec.ofNat 15 ((hi ++ lo).toNat % 32768))) ∧
  ∀ (s : State) (bank : Byte) (a : Addr) (v : Byte), s.host.activity = .between →
    let b : BankNumber := bank.setWidth 3
    let idx := BitVec.ofNat 15 (a.toNat % 32768)
    (bank.toNat ≤ 7 → exec (.read bank a) s = .next { s with
      host.ret := .byte (bankByte s b idx), book.hist := s.book.hist ++ [.host (.read bank a)] }) ∧
    (bank.toNat ≤ 7 → ∃ t, exec (.write bank a v) s = .next t ∧
      { t with store.bank := s.store.bank } = { s with
        book.hist := s.book.hist ++ [.host (.write bank a v), .bankWrite b idx v] } ∧
      bankByte t b idx = v ∧ BankKeptBut b idx s t) ∧
    (7 < bank.toNat → exec (.read bank a) s = .refused .bankOutOfRange ∧
      exec (.write bank a v) s = .refused .bankOutOfRange ∧
      exec (.clear bank) s = .refused .bankOutOfRange)

/-- R123, R124: `current_bank` answers `cur_bank`; `set_current_bank(n)` stores `n mod 8` and copies no
data; a negative `n` is refused (decision D16). -/
def Obligations.CurrentBankIsSetModuloEight : Prop :=
  ∀ s : State, s.host.activity = .between →
    exec .curbank s = .next { s with
      host.ret := .bank s.store.curBank, book.hist := s.book.hist ++ [.host .curbank] } ∧
    (∀ n : Nat, exec (.setbank n) s = .next { s with
      store.curBank := BitVec.ofNat 3 (n % 8)
      book.hist := s.book.hist ++ [.host (.setbank n)] }) ∧
    ∀ n : Int, n < 0 → exec (.setbank n) s = .refused .negativeBank

/-- `clear`, `save` and `load` are sequences of one-byte steps (R56, R62). Begun, `clear(b)` records
itself and writes byte 0; each further performance writes the next byte, and the last one the name; it
is taken up by the bank it clears only. `save` fills the next scratch byte, and when all are filled
appends the text of the next scratch byte, with its separator (R148), until FILE gets the text or, with
StorageError, part of it. `load`, its stream decoded, fills the next bank byte, an arbitrary one at an
offset the stream did not store (R151). The order of the bytes, and which performance does what, are
the model's (logs 18, 22). -/
def Obligations.BulkOperationsMoveOneByteAStep : Prop :=
  (∀ (s : State) (bank : Byte), s.host.activity = .between → bank.toNat ≤ 7 →
    ∃ t, exec (.clear bank) s = .next t ∧
      { t with store.bank := s.store.bank } = { s with
        host.activity := .clearing (bank.setWidth 3) 1
        book.hist := s.book.hist ++ [.host (.clear bank)] } ∧
      bankByte t (bank.setWidth 3) 0 = 0 ∧ BankKeptBut (bank.setWidth 3) 0 s t) ∧
  (∀ (s : State) (b : BankNumber) (i : Nat), s.host.activity = .clearing b i →
    (i < 32768 → ∃ t, exec (.clear (b.setWidth 8)) s = .next t ∧
      { t with store.bank := s.store.bank } = { s with host.activity := .clearing b (i + 1) } ∧
      bankByte t b (BitVec.ofNat 15 i) = 0 ∧ BankKeptBut b (BitVec.ofNat 15 i) s t) ∧
    (32768 ≤ i → exec (.clear (b.setWidth 8)) s = .next { s with
      host.activity := .between
      store.name := s.store.name.set b.toNat .empty b.isLt }) ∧
    ∀ bank : Byte, bank ≠ b.setWidth 8 → exec (.clear bank) s = .next s) ∧
  (∀ s : State, s.host.activity = .between → ∃ t, exec .save s = .next t ∧
    { t with store.scratch := s.store.scratch } = { s with
      host.activity := .saving s.store.curBank 1, book.hist := s.book.hist ++ [.host .save] } ∧
    scratchByte t 0 = bankByte s s.store.curBank (remapAddr 0) ∧ ScratchKeptBut 0 s t) ∧
  (∀ (s : State) (b : BankNumber) (i : Nat), s.host.activity = .saving b i → i < 32768 →
    ∃ t, exec .save s = .next t ∧
      { t with store.scratch := s.store.scratch } = { s with host.activity := .saving b (i + 1) } ∧
      scratchByte t i = bankByte s b (remapAddr (BitVec.ofNat 15 i)) ∧ ScratchKeptBut i s t) ∧
  (∀ (s : State) (i : Nat) (text : List Byte),
    (s.host.activity = .encoding i text ∨
      (∃ b j, s.host.activity = .saving b j ∧ 32768 ≤ j ∧ i = 0 ∧ text = [])) →
    (i < 32768 → exec .save s = .next { s with
      host.activity := .encoding (i + 1) (text ++
        (if i = 0 then [] else if i % 16 = 0 then [0x0A] else [0x20]) ++
        [BitVec.ofNat 8 (hexCode ((scratchByte s i).toNat / 16)),
         BitVec.ofNat 8 (hexCode ((scratchByte s i).toNat % 16))]) }) ∧
    (32768 ≤ i → s.host.storage = none → exec .save s = .next { s with
      host.activity := .between, host.fileOut := text, host.ret := .success }) ∧
    (32768 ≤ i → ∀ k, s.host.storage = some k → exec .save s = .next { s with
      host.activity := .between, host.fileOut := text.take k, host.ret := .storageError })) ∧
  ∀ (s : State) (b : BankNumber) (i : Nat) (text : List Byte), s.host.activity = .loading b i →
    (i < 32768 → ∃ (t : State) (k : Nat), exec (.load text) s = .next t ∧
      { t with store.bank := s.store.bank } = { s with
        host.activity := .loading b (i + 1), book.draws := s.book.draws + k } ∧
      (i ∈ s.host.dec.written → k = 0 ∧ bankByte t b (BitVec.ofNat 15 i) = scratchByte s i) ∧
      (i ∉ s.host.dec.written →
        k = 1 ∧ bankByte t b (BitVec.ofNat 15 i) = Config.draw8 s.book.draws) ∧
      BankKeptBut b (BitVec.ofNat 15 i) s t) ∧
    (32768 ≤ i → exec (.load text) s = .next { s with
      host.activity := .between, host.ret := .success
      store.name := s.store.name.set b.toNat (Config.loadedName s.book.draws) b.isLt
      book.draws := s.book.draws + 1 })

/-- R122: a whole `clear` zero-fills its bank and empties its name, and touches no other byte, name or
component; it takes 32768 byte writes and the write of the name (log 18 for the steps). With steps of
any agent between its own it has the same effect on the bank store, under R160's premise
`NoBusActivity`, whatever the PauseState (log 7 for the turns). -/
def Obligations.ClearZeroFillsTheBank : Prop :=
  (∀ (s : State) (bank : Byte), s.host.activity = .between → bank.toNat ≤ 7 →
    ∃ t, repeatExec (.clear bank) 32769 s = .next t ∧
      (∀ i, bankByte t (bank.setWidth 3) i = 0) ∧
      (∀ b i, b ≠ bank.setWidth 3 → bankByte t b i = bankByte s b i) ∧
      { t with store.bank := s.store.bank } = { s with
        store.name := s.store.name.set (bank.setWidth 3 : BankNumber).toNat .empty
          (bank.setWidth 3 : BankNumber).isLt
        book.hist := s.book.hist ++ [.host (.clear bank)] }) ∧
  ∀ (s t : State) (bank : Byte) (rest : List Turn) (n : Nat),
    s.host.activity = .between → bank.toNat ≤ 7 →
    s.book.script = .line (encode (.clear bank)) :: rest → rest.all agentTurn = true →
    NoBusActivity n s → runSteps n s = .next t → 0 < n → t.host.activity = .between →
    (∀ i, bankByte t (bank.setWidth 3) i = 0) ∧
    (∀ b i, b ≠ bank.setWidth 3 → bankByte t b i = bankByte s b i) ∧
    t.store.name = s.store.name.set (bank.setWidth 3 : BankNumber).toNat .empty
      (bank.setWidth 3 : BankNumber).isLt ∧
    t.store.curBank = s.store.curBank

/-! ### The address remapper -/

/-- R126, R127: bit `s` of the logical address is bit `REMAP[s]` of the physical one, for the table's 15
rows; nothing is written but the answer and the record of the call; an argument above 32767 is refused. -/
def Obligations.RemapPermutesAddressBits : Prop :=
  ∀ (s : State) (a : Addr), s.host.activity = .between →
    (a.toNat ≤ 32767 → ∃ p : BankIndex,
      exec (.remap a) s = .next { s with
        host.ret := .address p, book.hist := s.book.hist ++ [.host (.remap a)] } ∧
      p.getLsbD 6 = a.getLsbD 0 ∧ p.getLsbD 7 = a.getLsbD 1 ∧ p.getLsbD 8 = a.getLsbD 2 ∧
      p.getLsbD 9 = a.getLsbD 3 ∧ p.getLsbD 10 = a.getLsbD 4 ∧ p.getLsbD 5 = a.getLsbD 5 ∧
      p.getLsbD 0 = a.getLsbD 6 ∧ p.getLsbD 1 = a.getLsbD 7 ∧ p.getLsbD 2 = a.getLsbD 8 ∧
      p.getLsbD 3 = a.getLsbD 9 ∧ p.getLsbD 4 = a.getLsbD 10 ∧ p.getLsbD 11 = a.getLsbD 11 ∧
      p.getLsbD 12 = a.getLsbD 12 ∧ p.getLsbD 13 = a.getLsbD 13 ∧ p.getLsbD 14 = a.getLsbD 14 ∧
      p.setWidth 16 = (a &&& 0x7820) ||| ((a &&& 0x001F) <<< 6) ||| ((a >>> 6) &&& 0x001F)) ∧
    (32767 < a.toNat → exec (.remap a) s = .refused .remapOutOfRange)

/-- R128: `remap` is its own inverse, hence a bijection; its fixed points are the addresses whose two
5-bit fields agree; the rotation named `REMAP_ROT6` is a different permutation, not its own inverse. -/
def Obligations.RemapIsItsOwnInverse : Prop :=
  (∀ a, remapAddr (remapAddr a) = a) ∧
  (∀ p, ∃ a, remapAddr a = p ∧ ∀ b, remapAddr b = p → b = a) ∧
  (∀ a, remapAddr a = a ↔ a.extractLsb' 0 5 = a.extractLsb' 6 5) ∧
  remapAddr 32 = 32 ∧ remapAddr 64 = 1 ∧
  (∀ a, remapWith remapRot6 a =
    (a &&& 0x7800) ||| ((a <<< 6) &&& 0x07FF) ||| ((a &&& 0x07FF) >>> 5)) ∧
  remapWith remapRot6 (remapWith remapRot6 1) ≠ 1

/-! ### The hex record codec -/

/-- R132, R133, R134, R135: what a line terminator, `#`, an origin mark and a separator do in each parser
state, and that each is refused where it would split a unit (R143). -/
def Obligations.ControlCharactersMoveTheParser : Prop :=
  ∀ s : State, s.host.activity = .between → s.host.dec.status = .running →
    let d := s.host.dec
    let split := d.nib ≠ none ∨ (d.pstate = .inOrigin ∧ 0 < d.ocnt)
    (split → exec .chLtLf s = .refused .splitUnit ∧ exec .chLtCr s = .refused .splitUnit) ∧
    (¬split →
      exec .chLtLf s = .next { s with host.dec.pstate := .normal, host.dec.line := d.line + 1 } ∧
      exec .chLtCr s = .next { s with host.dec.pstate := .normal }) ∧
    (d.pstate = .inComment →
      exec .chHash s = .next s ∧ exec .chOrgAt s = .next s ∧ exec .chOrgColon s = .next s ∧
      exec .chSepSpace s = .next s ∧ exec .chSepTab s = .next s) ∧
    (d.pstate ≠ .inComment → split →
      exec .chHash s = .refused .splitUnit ∧ exec .chOrgAt s = .refused .splitUnit ∧
      exec .chOrgColon s = .refused .splitUnit ∧ exec .chSepSpace s = .refused .splitUnit ∧
      exec .chSepTab s = .refused .splitUnit) ∧
    (d.pstate ≠ .inComment → ¬split →
      exec .chHash s = .next { s with host.dec.pstate := .inComment } ∧
      exec .chOrgAt s = .next { s with
        host.dec.pstate := .inOrigin, host.dec.oacc := 0, host.dec.ocnt := 0 } ∧
      exec .chOrgColon s = .next { s with
        host.dec.pstate := .inOrigin, host.dec.oacc := 0, host.dec.ocnt := 0 } ∧
      exec .chSepSpace s = .next s ∧ exec .chSepTab s = .next s)

/-- R136, R137, R79: a first data digit is kept; a second makes the byte `16 * first + second`, stored at
the cursor, which moves on; past the end of the buffer it is a `DecodeError` of the current line, after
which every scratch byte is a free value (U11; logs 3, 19). Digits and letters of either case count
alike. -/
def Obligations.DataDigitPairsAreStored : Prop :=
  ∀ (s : State) (i : Instr) (d : BitVec 4),
    s.host.activity = .between → s.host.dec.status = .running → s.host.dec.pstate = .normal →
    ((∃ x : BitVec 4, i = .chHexNormalDigit x ∧ x.toNat ≤ 9 ∧ d.toNat = x.toNat) ∨
      (∃ h : BitVec 3, i = .chHexNormalUpper h ∧ 1 ≤ h.toNat ∧ h.toNat ≤ 6 ∧ d.toNat = 9 + h.toNat) ∨
      (∃ h : BitVec 3, i = .chHexNormalLower h ∧ 1 ≤ h.toNat ∧ h.toNat ≤ 6 ∧
        d.toNat = 9 + h.toNat)) →
    (s.host.dec.nib = none → exec i s = .next { s with host.dec.nib := some d }) ∧
    ∀ first, s.host.dec.nib = some first →
      (s.host.dec.cursor ≤ 32767 → ∃ t, exec i s = .next t ∧
        { t with store.scratch := s.store.scratch, host.dec.written := s.host.dec.written } =
          { s with host.dec.nib := none, host.dec.cursor := s.host.dec.cursor + 1 } ∧
        (scratchByte t s.host.dec.cursor).toNat = 16 * first.toNat + d.toNat ∧
        ScratchKeptBut s.host.dec.cursor s t ∧
        ∀ j, j ∈ t.host.dec.written ↔ j = s.host.dec.cursor ∨ j ∈ s.host.dec.written) ∧
      (32767 < s.host.dec.cursor → exec i s = .next { s with
        host.dec.nib := none, host.dec.status := .failed s.host.dec.line
        host.ret := .decodeError s.host.dec.line
        store.scratch := [], store.scratchFill := s.store.scratchFill + 1
        book.hist := s.book.hist ++ [.decodeError s.host.dec.line] })

/-- R138, R139, R79: an origin digit shifts into the origin value; the fourth applies it: `o - 0x1800`
becomes the cursor and the origin state is left, or, below 0x1800 or above 0x97FF, it is a
`DecodeError` of the current line (decision D20), as is an invalid character (R141, decision D21); after
it every scratch byte is a free value (U11; logs 3, 19). That the digit is counted before the error is
raised is the order of R138's text. -/
def Obligations.OriginDigitsSetTheCursor : Prop :=
  (∀ (s : State) (c : Byte), s.host.activity = .between → s.host.dec.status = .running →
    s.host.dec.pstate = .inOrigin → exec (.chBadOrigin c) s = .next { s with
      host.dec.status := .failed s.host.dec.line, host.ret := .decodeError s.host.dec.line
      store.scratch := [], store.scratchFill := s.store.scratchFill + 1
      book.hist := s.book.hist ++ [.decodeError s.host.dec.line] }) ∧
  ∀ (s : State) (i : Instr) (d : BitVec 4) (o : BitVec 16),
    s.host.activity = .between → s.host.dec.status = .running → s.host.dec.pstate = .inOrigin →
    ((∃ x : BitVec 4, i = .chHexOriginDigit x ∧ x.toNat ≤ 9 ∧ d.toNat = x.toNat) ∨
      (∃ h : BitVec 3, i = .chHexOriginUpper h ∧ 1 ≤ h.toNat ∧ h.toNat ≤ 6 ∧ d.toNat = 9 + h.toNat) ∨
      (∃ h : BitVec 3, i = .chHexOriginLower h ∧ 1 ≤ h.toNat ∧ h.toNat ≤ 6 ∧
        d.toNat = 9 + h.toNat)) →
    o.toNat = (16 * s.host.dec.oacc.toNat + d.toNat) % 65536 →
    (s.host.dec.ocnt ≠ 3 → exec i s = .next { s with
      host.dec.oacc := o, host.dec.ocnt := s.host.dec.ocnt + 1 }) ∧
    (s.host.dec.ocnt = 3 → 0x1800 ≤ o.toNat → o.toNat ≤ 0x97FF → exec i s = .next { s with
      host.dec.oacc := o, host.dec.ocnt := 4, host.dec.cursor := o.toNat - 0x1800
      host.dec.pstate := .normal }) ∧
    (s.host.dec.ocnt = 3 → (o.toNat < 0x1800 ∨ 0x97FF < o.toNat) → exec i s = .next { s with
      host.dec.oacc := o, host.dec.ocnt := 4, host.dec.status := .failed s.host.dec.line
      host.ret := .decodeError s.host.dec.line
      store.scratch := [], store.scratchFill := s.store.scratchFill + 1
      book.hist := s.book.hist ++ [.decodeError s.host.dec.line] })

/-- R140, R142: an invalid character is a `DecodeError` of the current line in `Normal` state, and any
character but a line terminator is ignored in a comment. After the error every scratch byte is a free
value (U11; logs 3, 19). -/
def Obligations.InvalidCharactersEndTheDecode : Prop :=
  ∀ (s : State) (c : Byte), s.host.activity = .between → s.host.dec.status = .running →
    (s.host.dec.pstate = .normal → ∃ t, exec (.chBadNormal c) s = .next t ∧
      t = { s with
        host.dec.status := .failed s.host.dec.line, host.ret := .decodeError s.host.dec.line
        store.scratch := [], store.scratchFill := s.store.scratchFill + 1
        book.hist := s.book.hist ++ [.decodeError s.host.dec.line] } ∧
      ∀ i, scratchByte t i = Config.freeScratchByte (s.store.scratchFill + 1) i) ∧
    (s.host.dec.pstate = .inComment → exec (.chAnyComment c) s = .next s)

/-- R131, R144: a decode begins with the variables' initial values; it performs, for each character in
turn, the row its class and the parser state name, one a step; an error ends it (R146); at the end of
the stream it succeeds, unless a unit is split. That the destination is the scratch buffer, and which
performance of the operation does what, are the model's (logs 18, 19). -/
def Obligations.DecodePerformsOneRowPerCharacter : Prop :=
  (∀ (s : State) (stream : List Byte), s.host.activity = .between →
    exec (.hexDecode stream) s = .next { s with
      host.activity := .decoding stream
      host.dec := { pstate := .normal, cursor := 0, nib := none, oacc := 0, ocnt := 0, line := 1,
                    written := [], status := .running }
      book.hist := s.book.hist ++ [.host (.hexDecode stream)] }) ∧
  ∀ (s : State) (x : List Byte), s.host.dec.status = .running →
    (∀ (c : Byte) (cs : List Byte), s.host.activity = .decoding (c :: cs) →
      let row := exec (decodeChar s.host.dec.pstate c) { s with host.activity := .between }
      (∀ t, row = .next t → exec (.hexDecode x) s = .next { t with
        host.activity := if t.host.dec.status = .running then .decoding cs else .between }) ∧
      (∀ r, row = .refused r → r = .splitUnit ∧ exec (.hexDecode x) s = .refused .splitUnit) ∧
      ∀ r, row ≠ .fault r) ∧
    (s.host.activity = .decoding [] →
      let split := s.host.dec.nib ≠ none ∨ (s.host.dec.pstate = .inOrigin ∧ 0 < s.host.dec.ocnt)
      (split → exec (.hexDecode x) s = .refused .splitUnit) ∧
      (¬split → exec (.hexDecode x) s = .next { s with
        host.activity := .between, host.ret := .success }))

/-- R145, R146: a stream in which no unit is split is decoded to its end with success, every offset that
is not in `written` keeping its byte, or up to a failing character with a `DecodeError` that reports
the number of line feeds before it, plus 1, every scratch byte being a free value then (U11; logs 3,
19). The bank store is not touched. The steps are the beginning, one a character, and the end (log
18). -/
def Obligations.DecodeSucceedsOrReportsTheLine : Prop :=
  ∀ (s : State) (stream : List Byte), s.host.activity = .between →
    wholeUnits .normal 0 stream = true →
    ∃ (n : Nat) (t : State), repeatExec (.hexDecode stream) n s = .next t ∧
      t.host.activity = .between ∧ BankKept s t ∧
      ((n = stream.length + 2 ∧ t.host.dec.status = .running ∧ t.host.ret = .success ∧
          ∀ i, i ∉ t.host.dec.written → scratchByte t i = scratchByte s i) ∨
        ∃ (pre post : List Byte) (c : Byte), stream = pre ++ c :: post ∧ n = pre.length + 2 ∧
          t.host.dec.status = .failed (pre.count 0x0A + 1) ∧
          t.host.ret = .decodeError (pre.count 0x0A + 1) ∧
          ∀ i, scratchByte t i = Config.freeScratchByte (s.store.scratchFill + 1) i)

/-- R147, R148: the text of a 32768-byte buffer is 98303 characters: two upper-case hex digits a byte, high
nibble first, a line feed before each positive multiple of 16, a space before every other byte but the
first, nothing after the last. Nothing but the output text changes (log 23 for where it goes). That a
buffer of another size is refused is the model's (log 20). -/
def Obligations.EncodeWritesSixteenBytesALine : Prop :=
  ∀ (s : State) (buf : List Byte), s.host.activity = .between →
    (buf.length = 32768 → ∃ text : List Byte,
      exec (.hexEncode buf) s = .next { s with
        host.fileOut := text, book.hist := s.book.hist ++ [.host (.hexEncode buf)] } ∧
      text.length = 98303 ∧
      ∀ (i : Nat) (v : Byte), buf[i]? = some v →
        text[3 * i]? = some (BitVec.ofNat 8 (hexCode (v.toNat / 16))) ∧
        text[3 * i + 1]? = some (BitVec.ofNat 8 (hexCode (v.toNat % 16))) ∧
        (i < 32767 → text[3 * i + 2]? = some (if (i + 1) % 16 = 0 then 0x0A else 0x20))) ∧
    (buf.length ≠ 32768 → exec (.hexEncode buf) s = .refused .bufferSize)

/-- R152 (a): encoding a buffer and decoding the text gives success, every offset written, and the buffer
back byte for byte, whatever the scratch buffer held before (log 19 for the destination, log 18 for the
steps: the beginning, 98303 characters, the end). -/
def Obligations.EncodeThenDecodeGivesTheBufferBack : Prop :=
  ∀ (s : State) (buf : List Byte), s.host.activity = .between → buf.length = 32768 →
    ∃ u t, exec (.hexEncode buf) s = .next u ∧
      repeatExec (.hexDecode u.host.fileOut) 98305 u = .next t ∧ t.host.activity = .between ∧
      t.host.ret = .success ∧ t.host.dec.status = .running ∧ t.host.dec.cursor = 32768 ∧
      (∀ i, i ∈ t.host.dec.written ↔ i < 32768) ∧
      ∀ (i : Nat) (v : Byte), buf[i]? = some v → scratchByte t i = v

/-- Frame of the codec: only the decoder's variables, scratch bytes, the answer, the output text, the
progress of a `DECODE` and the record change. A character row, and a step of a `DECODE`, stores at
most at the cursor, and of the rows only a data digit stores; but an error leaves every scratch byte a
free value (U11; logs 3, 19). `ENCODE` stores nothing and hands nothing back. -/
def Obligations.CodecFrame : Prop :=
  ∀ (s t : State) (i : Instr),
    ((∃ text, i = .hexDecode text) ∨ (∃ buf, i = .hexEncode buf) ∨ ∃ p c, i = decodeChar p c) →
    exec i s = .next t →
    t.env = s.env ∧ t.arb = s.arb ∧ t.regs = s.regs ∧ t.sequencer = s.sequencer ∧
    t.edge = s.edge ∧ t.store.curBank = s.store.curBank ∧ t.store.name = s.store.name ∧
    BankKept s t ∧ t.pause = s.pause ∧ t.idle = s.idle ∧
    t.host.storage = s.host.storage ∧ t.book.draws = s.book.draws ∧
    t.book.script = s.book.script ∧ t.book.cpuLatch = s.book.cpuLatch ∧
    ((∀ text, i ≠ .hexDecode text) → t.host.activity = s.host.activity) ∧
    ((∀ buf, i ≠ .hexEncode buf) → t.host.fileOut = s.host.fileOut) ∧
    ((∃ buf, i = .hexEncode buf) →
      ScratchKept s t ∧ t.host.dec = s.host.dec ∧ t.host.ret = s.host.ret) ∧
    (s.host.dec.status = .running → t.host.dec.status ≠ .running →
      ∀ j, scratchByte t j = Config.freeScratchByte (s.store.scratchFill + 1) j) ∧
    (s.host.dec.status ≠ .running ∨ t.host.dec.status = .running →
      ScratchKeptBut s.host.dec.cursor s t ∧
      ((∀ text, i ≠ .hexDecode text) →
        (∀ d h, i ≠ .chHexNormalDigit d ∧ i ≠ .chHexNormalUpper h ∧ i ≠ .chHexNormalLower h) →
        ScratchKept s t))

/-! ### Save and load -/

/-- R150, R175: a whole save, with nothing between its steps, copies the current bank into the scratch
buffer through the permutation and hands FILE the buffer's text, or, when the collaborator fails, the
part of it that was taken, with `StorageError`; no bank byte changes. With steps of any agent between
its own, a save that succeeds has written the same text, under R160's premise `NoBusActivity`. The
number of steps, the turns and where the text goes are the model's (logs 7, 18, 22, 23). -/
def Obligations.SaveWritesTheRemappedBank : Prop :=
  (∀ s : State, s.host.activity = .between →
    let buf := (List.range 32768).map fun a => bankByte s s.store.curBank (remapAddr (BitVec.ofNat 15 a))
    ∃ t, repeatExec .save 65537 s = .next t ∧
      (∀ a : BankIndex, scratchByte t a.toNat = bankByte s s.store.curBank (remapAddr a)) ∧
      (∀ i, 32768 ≤ i → scratchByte t i = scratchByte s i) ∧
      (s.host.storage = none → { t with store.scratch := s.store.scratch } = { s with
        host.fileOut := encodeText buf, host.ret := .success
        book.hist := s.book.hist ++ [.host .save] }) ∧
      ∀ k, s.host.storage = some k → { t with store.scratch := s.store.scratch } = { s with
        host.fileOut := (encodeText buf).take k, host.ret := .storageError
        book.hist := s.book.hist ++ [.host .save] }) ∧
  ∀ (s t : State) (rest : List Turn) (n : Nat),
    s.host.activity = .between → s.book.script = .line (encode .save) :: rest →
    rest.all agentTurn = true → NoBusActivity n s → runSteps n s = .next t → 0 < n →
    t.host.activity = .between →
    let buf := (List.range 32768).map fun a => bankByte s s.store.curBank (remapAddr (BitVec.ofNat 15 a))
    BankKept s t ∧
    ((t.host.ret = .success ∧ t.host.fileOut = encodeText buf) ∨
      (t.host.ret = .storageError ∧ ∃ k, t.host.fileOut = (encodeText buf).take k))

/-- R151, R175: a load decodes its stream into the scratch buffer, one character a step, each as the row
its class and the parser state name; on success the copy into the bank that is then current stands
next; on `DecodeError`, or when FILE gives no more, the load has ended. No bank byte changes before
the copy, and no stream without split units is refused (logs 18, 19, 21, 22). That no name changes
before it either, so that a load that fails keeps the name, is the model's (log 36). -/
def Obligations.LoadDecodesBeforeItCopies : Prop :=
  (∀ (s : State) (stream : List Byte), s.host.activity = .between →
    exec (.load stream) s = .next { s with
      host.activity := .reading stream 0
      host.dec := { pstate := .normal, cursor := 0, nib := none, oacc := 0, ocnt := 0, line := 1,
                    written := [], status := .running }
      book.hist := s.book.hist ++ [.host (.load stream)] }) ∧
  (∀ (s : State) (x cs : List Byte) (n : Nat), s.host.dec.status = .running →
    s.host.activity = .reading cs n →
    (∀ k, s.host.storage = some k → (k ≤ n ∨ cs = []) → exec (.load x) s = .next { s with
      host.activity := .between, host.ret := .storageError }) ∧
    ((∀ k, s.host.storage = some k → n < k) → ∀ c post, cs = c :: post →
      let row := exec (decodeChar s.host.dec.pstate c) { s with host.activity := .between }
      (∀ t, row = .next t → exec (.load x) s = .next { t with
        host.activity := if t.host.dec.status = .running then .reading post (n + 1) else .between }) ∧
      (∀ r, row = .refused r → exec (.load x) s = .refused .splitUnit)) ∧
    (s.host.storage = none → cs = [] →
      let split := s.host.dec.nib ≠ none ∨ (s.host.dec.pstate = .inOrigin ∧ 0 < s.host.dec.ocnt)
      (split → exec (.load x) s = .refused .splitUnit) ∧
      (¬split → exec (.load x) s = .next { s with
        host.activity := .loading s.store.curBank 0 })) ∧
    ∀ t, exec (.load x) s = .next t → BankKept s t ∧ t.store.name = s.store.name) ∧
  ∀ (s : State) (stream : List Byte), s.host.activity = .between →
    wholeUnits .normal 0 stream = true →
    ∃ (n : Nat) (t : State), repeatExec (.load stream) n s = .next t ∧ BankKept s t ∧
      t.store.name = s.store.name ∧
      ((s.host.storage = none ∧ n = stream.length + 2 ∧ t.host.dec.status = .running ∧
          t.host.activity = .loading s.store.curBank 0) ∨
        (s.host.storage ≠ none ∧ t.host.activity = .between ∧ t.host.ret = .storageError) ∨
        ∃ (pre post : List Byte) (c : Byte), stream = pre ++ c :: post ∧ n = pre.length + 2 ∧
          t.host.activity = .between ∧ t.host.ret = .decodeError (pre.count 0x0A + 1))

/-- R151: the copy of a load, with nothing between its steps, puts each offset the file mentioned into
the bank with no permutation, and an arbitrary byte of its own at each other offset; the name is
unspecified after it, and no other bank, name or component changes (logs 4, 5, 18). With steps of any
agent between its own, a whole load that succeeds leaves the stored bytes in the bank, one that does
not leaves every bank as it was, and no other bank changes, under R160's premise `NoBusActivity` (log
7 for the turns). -/
def Obligations.LoadCopiesTheDecodedBytes : Prop :=
  (∀ (s : State) (b : BankNumber) (text : List Byte), s.host.activity = .loading b 0 →
    let missing (n : Nat) := ((List.range n).filter fun j => j ∉ s.host.dec.written).length
    ∃ t, repeatExec (.load text) 32769 s = .next t ∧
      (∀ i : BankIndex, i.toNat ∈ s.host.dec.written → bankByte t b i = scratchByte s i.toNat) ∧
      (∀ i : BankIndex, i.toNat ∉ s.host.dec.written →
        bankByte t b i = Config.draw8 (s.book.draws + missing i.toNat)) ∧
      (∀ b' i, b' ≠ b → bankByte t b' i = bankByte s b' i) ∧
      { t with store.bank := s.store.bank } = { s with
        store.name := s.store.name.set b.toNat (Config.loadedName (s.book.draws + missing 32768)) b.isLt
        host.activity := .between, host.ret := .success
        book.draws := s.book.draws + missing 32768 + 1 }) ∧
  ∀ (s t : State) (stream : List Byte) (rest : List Turn) (n : Nat),
    s.host.activity = .between → s.book.script = .line (encode (.load stream)) :: rest →
    rest.all agentTurn = true → NoBusActivity n s → runSteps n s = .next t → 0 < n →
    t.host.activity = .between →
    (∀ b i, b ≠ s.store.curBank → bankByte t b i = bankByte s b i) ∧
    (t.host.ret = .success → ∀ i : BankIndex, i.toNat ∈ t.host.dec.written →
      bankByte t s.store.curBank i = scratchByte t i.toNat) ∧
    (t.host.ret ≠ .success → BankKept s t)

/-- R152 (b): saving a bank and loading the file back, with nothing between, leaves the bank permuted:
`bank'[i] = bank[remap(i)]`, so it is the original exactly where the bank already agrees with its
permutation; the other banks are untouched (logs 18, 19, 23). -/
def Obligations.SaveThenLoadPermutesTheBank : Prop :=
  ∀ s : State, s.host.activity = .between → s.host.storage = none →
    ∃ u t, repeatExec .save 65537 s = .next u ∧
      repeatExec (.load u.host.fileOut) 131074 u = .next t ∧
      t.host.activity = .between ∧ t.host.ret = .success ∧
      (∀ i, bankByte t s.store.curBank i = bankByte s s.store.curBank (remapAddr i)) ∧
      ∀ b i, b ≠ s.store.curBank → bankByte t b i = bankByte s b i

/-! ### The pause protocol -/

/-- R153 to R158: each operation of the handshake, from the states in which its agent can perform it.
UI's are recorded as host operations (R41); where UI stands while it waits is the model's (log 31). -/
def Obligations.PauseOperations : Prop :=
  (∀ s : State, s.host.activity = .between →
    (s.pause.req = false → exec .preq s = .next { s with
      pause.req := true, book.hist := s.book.hist ++ [.host .preq] }) ∧
    (s.pause.req = true → exec .preq s = .refused .requestOutstanding) ∧
    (s.pause.ack = true → exec .pwait s = .next { s with
      book.hist := s.book.hist ++ [.host .pwait] }) ∧
    (s.pause.ack = false → exec .pwait s = .next { s with
      host.activity := .waitingAck, book.hist := s.book.hist ++ [.host .pwait] }) ∧
    exec .prel s = .next { s with
      pause.req := false, book.hist := s.book.hist ++ [.host .prel] }) ∧
  (∀ s : State, s.host.activity = .waitingAck →
    (s.pause.ack = true → exec .pwait s = .next { s with host.activity := .between }) ∧
    (s.pause.ack = false → exec .pwait s = .next s)) ∧
  ∀ s : State, s.sequencer = .idle →
    (s.idle = .ipoll → s.pause.req = true → exec .ipoll s = .next { s with idle := .iack }) ∧
    (s.idle = .ipoll → s.pause.req = false → exec .ipoll s = .next s) ∧
    (s.idle = .iack → exec .iack s = .next { s with pause.ack := true, idle := .ispin }) ∧
    (s.idle = .ispin → s.pause.req = true → exec .ispin s = .next s) ∧
    (s.idle = .ispin → s.pause.req = false → exec .ispin s = .next { s with idle := .iresume }) ∧
    (s.idle = .iresume → exec .iresume s = .next { s with pause.ack := false, idle := .ipoll })

/-- R34, R35: of all operations only `PREQ` sets and only `PREL` clears `pause_req`, by UI between
operations; only `IACK` sets and only `IRESUME` clears `pause_ack`, by BUSIDLE while no handler runs.
So in any step a change of `pause_ack` is the idle loop's (R171). -/
def Obligations.PauseFlagsHaveOneWriterEach : Prop :=
  (∀ (s t : State) (i : Instr), exec i s = .next t →
    (s.pause.req = false → t.pause.req = true → i = .preq ∧ s.host.activity = .between) ∧
    (s.pause.req = true → t.pause.req = false → i = .prel ∧ s.host.activity = .between) ∧
    (s.pause.ack = false → t.pause.ack = true →
      i = .iack ∧ s.sequencer = .idle ∧ s.idle = .iack) ∧
    (s.pause.ack = true → t.pause.ack = false →
      i = .iresume ∧ s.sequencer = .idle ∧ s.idle = .iresume)) ∧
  ∀ s t : State, step s = .next t → t.pause.ack ≠ s.pause.ack →
    s.sequencer = .idle ∧ (s.idle = .iack ∨ s.idle = .iresume)

/-! ### The machine as a whole -/

/-- Over all operations, who writes what: the current bank (R38), names (R39), bank bytes (R37), scratch
bytes (R40), the arbiter (R89); who sets the latches, and who clears them, which is the entry of the
latch's own handler (R31, R168); none changes the environment's inputs (R14, R15) or the schedule. Of
the character rows those that can raise an error write scratch bytes (U11; log 19). -/
def Obligations.StateIsWrittenByItsOwnersOnly : Prop :=
  ∀ (s t : State) (i : Instr), exec i s = .next t →
    t.env = s.env ∧ t.book.script = s.book.script ∧ t.book.cpuLatch = s.book.cpuLatch ∧
    (t.store.curBank ≠ s.store.curBank → ∃ n, i = .setbank n) ∧
    (t.store.name ≠ s.store.name → (∃ b, i = .clear b) ∨ ∃ x, i = .load x) ∧
    (¬BankKept s t →
      i = .iocyc ∨ (∃ m r, i = .iowrMem m r) ∨ (∃ b a v, i = .bankWrite b a v) ∨
      (∃ b a v, i = .write b a v) ∨ (∃ b, i = .clear b) ∨ ∃ x, i = .load x) ∧
    (¬ScratchKept s t →
      (∃ d, i = .chHexNormalDigit d) ∨ (∃ d, i = .chHexNormalUpper d) ∨
      (∃ d, i = .chHexNormalLower d) ∨ (∃ d, i = .chHexOriginDigit d) ∨
      (∃ d, i = .chHexOriginUpper d) ∨ (∃ d, i = .chHexOriginLower d) ∨
      (∃ c, i = .chBadNormal c) ∨ (∃ c, i = .chBadOrigin c) ∨
      (∃ x, i = .hexDecode x) ∨ i = .save ∨ ∃ x, i = .load x) ∧
    (t.arb ≠ s.arb →
      handlerOnly i = true ∨ i = .iocyc ∨ i = .memcyc ∨ (∃ w c, i = .memrd w c) ∨
      (∃ w c, i = .memAbortRdInactive w c) ∨ (∃ r w c, i = .memAbortMreqInactive r w c) ∨
      (∃ m r, i = .iowrMem m r) ∨ (∃ m r, i = .iowrCon m r) ∨ ∃ m r c, i = .ioNowr m r c) ∧
    (s.edge.pendIo = false → t.edge.pendIo = true → ∃ m, i = .edgeIo m) ∧
    (s.edge.pendMem = false → t.edge.pendMem = true → i = .edgeMem ∨ i = .edgeIo true) ∧
    (s.edge.pendIo = true → t.edge.pendIo = false →
      i = .dispatch ∨ i = .iocyc ∨ (∃ m r, i = .iowrMem m r) ∨ (∃ m r, i = .iowrCon m r) ∨
      ∃ m r c, i = .ioNowr m r c) ∧
    (s.edge.pendMem = true → t.edge.pendMem = false →
      i = .dispatch ∨ i = .memcyc ∨ (∃ w c, i = .memrd w c) ∨
      (∃ w c, i = .memAbortRdInactive w c) ∨ ∃ r w c, i = .memAbortMreqInactive r w c)

/-- R43's table, as the model has it: each value the spec names (decision D12, and "Idle at boot"), and
BUSIDLE at `IPOLL` (R187). That the control lines are high as reset ends, and every value the spec
leaves unspecified, are the model's (logs 1, 2). -/
def Obligations.ResetState : Prop :=
  let r := State.reset
  r.pause = { req := false, ack := false } ∧ ctlEncode r.arb.mux = 0b111111 ∧
  r.arb.shMode = .input ∧ r.arb.settled = false ∧ r.sequencer = .idle ∧ fsm r.sequencer = .idle ∧
  busy r = false ∧ pauseState r.pause = .idle ∧ r.edge.pendIo = false ∧ r.edge.pendMem = false ∧
  r.edge.prevIorq = r.env.iorqN ∧ r.edge.prevMreq = r.env.mreqN ∧ r.store.curBank = 0 ∧
  (∀ b i, bankByte r b i = Config.resetBankByte (b.toNat * 32768 + i.toNat)) ∧
  (∀ i, scratchByte r i = Config.freeScratchByte 0 i) ∧ r.book.hist = [] ∧ r.idle = .ipoll ∧
  Quiescent r

/-- The reset state has the invariant. -/
def Obligations.ResetHasTheInvariant : Prop := Inv State.reset

/-- Every step keeps the invariant: while no handler runs the lines are neutral and released (R18, R19,
R100), and each handler label finds the arbiter as the handler left it; the memories stay in canonical
form inside their address spaces (R37, R40); the detector has seen every level (R32); `pause_ack`
stands exactly between IACK and IRESUME (R157, R158); the decoder's variables keep their ranges
(R130). The schedule leaves micro-operations to the handlers (log 28). -/
def Obligations.StepKeepsTheInvariant : Prop :=
  ∀ s t : State, Inv s → step s = .next t → Inv t
end

