-- ==== Sys2Proof/Laws/State.lean ====
section
/-! SUPPORT. What each named update of the state leaves and writes: one lemma for each group of R13, and
for each field of the group it writes. -/

namespace Sys2Proof.Machine

section emit
variable (e : Event) (s : State)

@[simp] theorem emit_env : (emit e s).env = s.env := rfl
@[simp] theorem emit_arb : (emit e s).arb = s.arb := rfl
@[simp] theorem emit_regs : (emit e s).regs = s.regs := rfl
@[simp] theorem emit_sequencer : (emit e s).sequencer = s.sequencer := rfl
@[simp] theorem emit_edge : (emit e s).edge = s.edge := rfl
@[simp] theorem emit_store : (emit e s).store = s.store := rfl
@[simp] theorem emit_pause : (emit e s).pause = s.pause := rfl
@[simp] theorem emit_idle : (emit e s).idle = s.idle := rfl
@[simp] theorem emit_host : (emit e s).host = s.host := rfl
@[simp] theorem emit_book_hist :
    (emit e s).book.hist = s.book.hist ++ [e] := rfl
@[simp] theorem emit_book_draws :
    (emit e s).book.draws = s.book.draws := rfl
@[simp] theorem emit_book_cpuLatch :
    (emit e s).book.cpuLatch = s.book.cpuLatch := rfl
@[simp] theorem emit_book_script :
    (emit e s).book.script = s.book.script := rfl

end emit

section draw8
variable (s : State)

@[simp] theorem draw8_env : ((draw8 s).2).env = s.env := rfl
@[simp] theorem draw8_arb : ((draw8 s).2).arb = s.arb := rfl
@[simp] theorem draw8_regs : ((draw8 s).2).regs = s.regs := rfl
@[simp] theorem draw8_sequencer : ((draw8 s).2).sequencer = s.sequencer := rfl
@[simp] theorem draw8_edge : ((draw8 s).2).edge = s.edge := rfl
@[simp] theorem draw8_store : ((draw8 s).2).store = s.store := rfl
@[simp] theorem draw8_pause : ((draw8 s).2).pause = s.pause := rfl
@[simp] theorem draw8_idle : ((draw8 s).2).idle = s.idle := rfl
@[simp] theorem draw8_host : ((draw8 s).2).host = s.host := rfl
@[simp] theorem draw8_book_hist :
    ((draw8 s).2).book.hist = s.book.hist := rfl
@[simp] theorem draw8_book_draws :
    ((draw8 s).2).book.draws = s.book.draws + 1 := rfl
@[simp] theorem draw8_book_cpuLatch :
    ((draw8 s).2).book.cpuLatch = s.book.cpuLatch := rfl
@[simp] theorem draw8_book_script :
    ((draw8 s).2).book.script = s.book.script := rfl

end draw8

section giveBack
variable (r : RetVal) (s : State)

@[simp] theorem giveBack_env : (giveBack r s).env = s.env := rfl
@[simp] theorem giveBack_arb : (giveBack r s).arb = s.arb := rfl
@[simp] theorem giveBack_regs : (giveBack r s).regs = s.regs := rfl
@[simp] theorem giveBack_sequencer : (giveBack r s).sequencer = s.sequencer := rfl
@[simp] theorem giveBack_edge : (giveBack r s).edge = s.edge := rfl
@[simp] theorem giveBack_store : (giveBack r s).store = s.store := rfl
@[simp] theorem giveBack_pause : (giveBack r s).pause = s.pause := rfl
@[simp] theorem giveBack_idle : (giveBack r s).idle = s.idle := rfl
@[simp] theorem giveBack_host_activity :
    (giveBack r s).host.activity = s.host.activity := rfl
@[simp] theorem giveBack_host_dec :
    (giveBack r s).host.dec = s.host.dec := rfl
@[simp] theorem giveBack_host_ret :
    (giveBack r s).host.ret = r := rfl
@[simp] theorem giveBack_host_fileOut :
    (giveBack r s).host.fileOut = s.host.fileOut := rfl
@[simp] theorem giveBack_host_storage :
    (giveBack r s).host.storage = s.host.storage := rfl
@[simp] theorem giveBack_book : (giveBack r s).book = s.book := rfl

end giveBack

section goto
variable (q : Sequencer) (s : State)

@[simp] theorem goto_env : (goto q s).env = s.env := rfl
@[simp] theorem goto_arb : (goto q s).arb = s.arb := rfl
@[simp] theorem goto_regs : (goto q s).regs = s.regs := rfl
@[simp] theorem goto_sequencer : (goto q s).sequencer = q := rfl
@[simp] theorem goto_edge : (goto q s).edge = s.edge := rfl
@[simp] theorem goto_store : (goto q s).store = s.store := rfl
@[simp] theorem goto_pause : (goto q s).pause = s.pause := rfl
@[simp] theorem goto_idle : (goto q s).idle = s.idle := rfl
@[simp] theorem goto_host : (goto q s).host = s.host := rfl
@[simp] theorem goto_book : (goto q s).book = s.book := rfl

end goto

section setActivity
variable (u : UiActivity) (s : State)

@[simp] theorem setActivity_env : (setActivity u s).env = s.env := rfl
@[simp] theorem setActivity_arb : (setActivity u s).arb = s.arb := rfl
@[simp] theorem setActivity_regs : (setActivity u s).regs = s.regs := rfl
@[simp] theorem setActivity_sequencer : (setActivity u s).sequencer = s.sequencer := rfl
@[simp] theorem setActivity_edge : (setActivity u s).edge = s.edge := rfl
@[simp] theorem setActivity_store : (setActivity u s).store = s.store := rfl
@[simp] theorem setActivity_pause : (setActivity u s).pause = s.pause := rfl
@[simp] theorem setActivity_idle : (setActivity u s).idle = s.idle := rfl
@[simp] theorem setActivity_host_activity :
    (setActivity u s).host.activity = u := rfl
@[simp] theorem setActivity_host_dec :
    (setActivity u s).host.dec = s.host.dec := rfl
@[simp] theorem setActivity_host_ret :
    (setActivity u s).host.ret = s.host.ret := rfl
@[simp] theorem setActivity_host_fileOut :
    (setActivity u s).host.fileOut = s.host.fileOut := rfl
@[simp] theorem setActivity_host_storage :
    (setActivity u s).host.storage = s.host.storage := rfl
@[simp] theorem setActivity_book : (setActivity u s).book = s.book := rfl

end setActivity

section setBankByte
variable (b : BankNumber) (i : BankIndex) (v : Byte) (s : State)

@[simp] theorem setBankByte_env : (setBankByte b i v s).env = s.env := rfl
@[simp] theorem setBankByte_arb : (setBankByte b i v s).arb = s.arb := rfl
@[simp] theorem setBankByte_regs : (setBankByte b i v s).regs = s.regs := rfl
@[simp] theorem setBankByte_sequencer : (setBankByte b i v s).sequencer = s.sequencer := rfl
@[simp] theorem setBankByte_edge : (setBankByte b i v s).edge = s.edge := rfl
@[simp] theorem setBankByte_store_bank :
    (setBankByte b i v s).store.bank = s.store.bank.store (bankKey b i) v := rfl
@[simp] theorem setBankByte_store_curBank :
    (setBankByte b i v s).store.curBank = s.store.curBank := rfl
@[simp] theorem setBankByte_store_name :
    (setBankByte b i v s).store.name = s.store.name := rfl
@[simp] theorem setBankByte_store_scratch :
    (setBankByte b i v s).store.scratch = s.store.scratch := rfl
@[simp] theorem setBankByte_store_scratchFill :
    (setBankByte b i v s).store.scratchFill = s.store.scratchFill := rfl
@[simp] theorem setBankByte_pause : (setBankByte b i v s).pause = s.pause := rfl
@[simp] theorem setBankByte_idle : (setBankByte b i v s).idle = s.idle := rfl
@[simp] theorem setBankByte_host : (setBankByte b i v s).host = s.host := rfl
@[simp] theorem setBankByte_book : (setBankByte b i v s).book = s.book := rfl

end setBankByte

section setScratchByte
variable (i : Nat) (v : Byte) (s : State)

@[simp] theorem setScratchByte_env : (setScratchByte i v s).env = s.env := rfl
@[simp] theorem setScratchByte_arb : (setScratchByte i v s).arb = s.arb := rfl
@[simp] theorem setScratchByte_regs : (setScratchByte i v s).regs = s.regs := rfl
@[simp] theorem setScratchByte_sequencer : (setScratchByte i v s).sequencer = s.sequencer := rfl
@[simp] theorem setScratchByte_edge : (setScratchByte i v s).edge = s.edge := rfl
@[simp] theorem setScratchByte_store_bank :
    (setScratchByte i v s).store.bank = s.store.bank := rfl
@[simp] theorem setScratchByte_store_curBank :
    (setScratchByte i v s).store.curBank = s.store.curBank := rfl
@[simp] theorem setScratchByte_store_name :
    (setScratchByte i v s).store.name = s.store.name := rfl
@[simp] theorem setScratchByte_store_scratch :
    (setScratchByte i v s).store.scratch = s.store.scratch.store i v := rfl
@[simp] theorem setScratchByte_store_scratchFill :
    (setScratchByte i v s).store.scratchFill = s.store.scratchFill := rfl
@[simp] theorem setScratchByte_pause : (setScratchByte i v s).pause = s.pause := rfl
@[simp] theorem setScratchByte_idle : (setScratchByte i v s).idle = s.idle := rfl
@[simp] theorem setScratchByte_host : (setScratchByte i v s).host = s.host := rfl
@[simp] theorem setScratchByte_book : (setScratchByte i v s).book = s.book := rfl

end setScratchByte

section forgetScratch
variable (s : State)

@[simp] theorem forgetScratch_env : (forgetScratch s).env = s.env := rfl
@[simp] theorem forgetScratch_arb : (forgetScratch s).arb = s.arb := rfl
@[simp] theorem forgetScratch_regs : (forgetScratch s).regs = s.regs := rfl
@[simp] theorem forgetScratch_sequencer : (forgetScratch s).sequencer = s.sequencer := rfl
@[simp] theorem forgetScratch_edge : (forgetScratch s).edge = s.edge := rfl
@[simp] theorem forgetScratch_store_bank :
    (forgetScratch s).store.bank = s.store.bank := rfl
@[simp] theorem forgetScratch_store_curBank :
    (forgetScratch s).store.curBank = s.store.curBank := rfl
@[simp] theorem forgetScratch_store_name :
    (forgetScratch s).store.name = s.store.name := rfl
@[simp] theorem forgetScratch_store_scratch :
    (forgetScratch s).store.scratch = [] := rfl
@[simp] theorem forgetScratch_store_scratchFill :
    (forgetScratch s).store.scratchFill = s.store.scratchFill + 1 := rfl
@[simp] theorem forgetScratch_pause : (forgetScratch s).pause = s.pause := rfl
@[simp] theorem forgetScratch_idle : (forgetScratch s).idle = s.idle := rfl
@[simp] theorem forgetScratch_host : (forgetScratch s).host = s.host := rfl
@[simp] theorem forgetScratch_book : (forgetScratch s).book = s.book := rfl

end forgetScratch

section setName
variable (b : BankNumber) (n : BankName) (s : State)

@[simp] theorem setName_env : (setName b n s).env = s.env := rfl
@[simp] theorem setName_arb : (setName b n s).arb = s.arb := rfl
@[simp] theorem setName_regs : (setName b n s).regs = s.regs := rfl
@[simp] theorem setName_sequencer : (setName b n s).sequencer = s.sequencer := rfl
@[simp] theorem setName_edge : (setName b n s).edge = s.edge := rfl
@[simp] theorem setName_store_bank :
    (setName b n s).store.bank = s.store.bank := rfl
@[simp] theorem setName_store_curBank :
    (setName b n s).store.curBank = s.store.curBank := rfl
@[simp] theorem setName_store_name :
    (setName b n s).store.name = s.store.name.set b.toNat n b.isLt := rfl
@[simp] theorem setName_store_scratch :
    (setName b n s).store.scratch = s.store.scratch := rfl
@[simp] theorem setName_store_scratchFill :
    (setName b n s).store.scratchFill = s.store.scratchFill := rfl
@[simp] theorem setName_pause : (setName b n s).pause = s.pause := rfl
@[simp] theorem setName_idle : (setName b n s).idle = s.idle := rfl
@[simp] theorem setName_host : (setName b n s).host = s.host := rfl
@[simp] theorem setName_book : (setName b n s).book = s.book := rfl

end setName

section setDec
variable (d : Decoder) (s : State)

@[simp] theorem setDec_env : (setDec d s).env = s.env := rfl
@[simp] theorem setDec_arb : (setDec d s).arb = s.arb := rfl
@[simp] theorem setDec_regs : (setDec d s).regs = s.regs := rfl
@[simp] theorem setDec_sequencer : (setDec d s).sequencer = s.sequencer := rfl
@[simp] theorem setDec_edge : (setDec d s).edge = s.edge := rfl
@[simp] theorem setDec_store : (setDec d s).store = s.store := rfl
@[simp] theorem setDec_pause : (setDec d s).pause = s.pause := rfl
@[simp] theorem setDec_idle : (setDec d s).idle = s.idle := rfl
@[simp] theorem setDec_host_activity :
    (setDec d s).host.activity = s.host.activity := rfl
@[simp] theorem setDec_host_dec :
    (setDec d s).host.dec = d := rfl
@[simp] theorem setDec_host_ret :
    (setDec d s).host.ret = s.host.ret := rfl
@[simp] theorem setDec_host_fileOut :
    (setDec d s).host.fileOut = s.host.fileOut := rfl
@[simp] theorem setDec_host_storage :
    (setDec d s).host.storage = s.host.storage := rfl
@[simp] theorem setDec_book : (setDec d s).book = s.book := rfl

end setDec

section setScript
variable (ts : List Turn) (s : State)

@[simp] theorem setScript_env : (setScript ts s).env = s.env := rfl
@[simp] theorem setScript_arb : (setScript ts s).arb = s.arb := rfl
@[simp] theorem setScript_regs : (setScript ts s).regs = s.regs := rfl
@[simp] theorem setScript_sequencer : (setScript ts s).sequencer = s.sequencer := rfl
@[simp] theorem setScript_edge : (setScript ts s).edge = s.edge := rfl
@[simp] theorem setScript_store : (setScript ts s).store = s.store := rfl
@[simp] theorem setScript_pause : (setScript ts s).pause = s.pause := rfl
@[simp] theorem setScript_idle : (setScript ts s).idle = s.idle := rfl
@[simp] theorem setScript_host : (setScript ts s).host = s.host := rfl
@[simp] theorem setScript_book_hist :
    (setScript ts s).book.hist = s.book.hist := rfl
@[simp] theorem setScript_book_draws :
    (setScript ts s).book.draws = s.book.draws := rfl
@[simp] theorem setScript_book_cpuLatch :
    (setScript ts s).book.cpuLatch = s.book.cpuLatch := rfl
@[simp] theorem setScript_book_script :
    (setScript ts s).book.script = ts := rfl

end setScript

section beginHost
variable (op : Instr) (s : State)

@[simp] theorem beginHost_env : (beginHost op s).env = s.env := rfl
@[simp] theorem beginHost_arb : (beginHost op s).arb = s.arb := rfl
@[simp] theorem beginHost_regs : (beginHost op s).regs = s.regs := rfl
@[simp] theorem beginHost_sequencer : (beginHost op s).sequencer = s.sequencer := rfl
@[simp] theorem beginHost_edge : (beginHost op s).edge = s.edge := rfl
@[simp] theorem beginHost_store : (beginHost op s).store = s.store := rfl
@[simp] theorem beginHost_pause : (beginHost op s).pause = s.pause := rfl
@[simp] theorem beginHost_idle : (beginHost op s).idle = s.idle := rfl
@[simp] theorem beginHost_host : (beginHost op s).host = s.host := rfl
@[simp] theorem beginHost_book_hist :
    (beginHost op s).book.hist = s.book.hist ++ [.host op] := rfl
@[simp] theorem beginHost_book_draws :
    (beginHost op s).book.draws = s.book.draws := rfl
@[simp] theorem beginHost_book_cpuLatch :
    (beginHost op s).book.cpuLatch = s.book.cpuLatch := rfl
@[simp] theorem beginHost_book_script :
    (beginHost op s).book.script = s.book.script := rfl

end beginHost

section settleWait
variable (k : SettlePoint) (s : State)

@[simp] theorem settleWait_env : (settleWait k s).env = s.env := rfl
@[simp] theorem settleWait_arb_mux :
    (settleWait k s).arb.mux = s.arb.mux := rfl
@[simp] theorem settleWait_arb_shMode :
    (settleWait k s).arb.shMode = s.arb.shMode := rfl
@[simp] theorem settleWait_arb_shOut :
    (settleWait k s).arb.shOut = s.arb.shOut := rfl
@[simp] theorem settleWait_arb_settled :
    (settleWait k s).arb.settled = true := rfl
@[simp] theorem settleWait_regs : (settleWait k s).regs = s.regs := rfl
@[simp] theorem settleWait_sequencer : (settleWait k s).sequencer = s.sequencer := rfl
@[simp] theorem settleWait_edge : (settleWait k s).edge = s.edge := rfl
@[simp] theorem settleWait_store : (settleWait k s).store = s.store := rfl
@[simp] theorem settleWait_pause : (settleWait k s).pause = s.pause := rfl
@[simp] theorem settleWait_idle : (settleWait k s).idle = s.idle := rfl
@[simp] theorem settleWait_host : (settleWait k s).host = s.host := rfl
@[simp] theorem settleWait_book : (settleWait k s).book = s.book := rfl

end settleWait

section releaseLines
variable (s : State)

@[simp] theorem releaseLines_env : (releaseLines s).env = s.env := rfl
@[simp] theorem releaseLines_arb_mux :
    (releaseLines s).arb.mux = s.arb.mux := rfl
@[simp] theorem releaseLines_arb_shMode :
    (releaseLines s).arb.shMode = .input := rfl
@[simp] theorem releaseLines_arb_shOut :
    (releaseLines s).arb.shOut = s.arb.shOut := rfl
@[simp] theorem releaseLines_arb_settled :
    (releaseLines s).arb.settled = s.arb.settled := rfl
@[simp] theorem releaseLines_regs : (releaseLines s).regs = s.regs := rfl
@[simp] theorem releaseLines_sequencer : (releaseLines s).sequencer = s.sequencer := rfl
@[simp] theorem releaseLines_edge : (releaseLines s).edge = s.edge := rfl
@[simp] theorem releaseLines_store : (releaseLines s).store = s.store := rfl
@[simp] theorem releaseLines_pause : (releaseLines s).pause = s.pause := rfl
@[simp] theorem releaseLines_idle : (releaseLines s).idle = s.idle := rfl
@[simp] theorem releaseLines_host : (releaseLines s).host = s.host := rfl
@[simp] theorem releaseLines_book : (releaseLines s).book = s.book := rfl

end releaseLines

section emitTests
variable (ls : List CtlLine) (s : State)

@[simp] theorem emitTests_env : (emitTests ls s).env = s.env := rfl
@[simp] theorem emitTests_arb : (emitTests ls s).arb = s.arb := rfl
@[simp] theorem emitTests_regs : (emitTests ls s).regs = s.regs := rfl
@[simp] theorem emitTests_sequencer : (emitTests ls s).sequencer = s.sequencer := rfl
@[simp] theorem emitTests_edge : (emitTests ls s).edge = s.edge := rfl
@[simp] theorem emitTests_store : (emitTests ls s).store = s.store := rfl
@[simp] theorem emitTests_pause : (emitTests ls s).pause = s.pause := rfl
@[simp] theorem emitTests_idle : (emitTests ls s).idle = s.idle := rfl
@[simp] theorem emitTests_host : (emitTests ls s).host = s.host := rfl
@[simp] theorem emitTests_book_hist :
    (emitTests ls s).book.hist = s.book.hist ++ (levelsOf s ls).map fun p => .test p.1 p.2 := rfl
@[simp] theorem emitTests_book_draws :
    (emitTests ls s).book.draws = s.book.draws := rfl
@[simp] theorem emitTests_book_cpuLatch :
    (emitTests ls s).book.cpuLatch = s.book.cpuLatch := rfl
@[simp] theorem emitTests_book_script :
    (emitTests ls s).book.script = s.book.script := rfl

end emitTests

section noteContention
variable (s t : State)

@[simp] theorem noteContention_env : (noteContention s t).env = t.env := by
  unfold noteContention; split <;> rfl
@[simp] theorem noteContention_arb : (noteContention s t).arb = t.arb := by
  unfold noteContention; split <;> rfl
@[simp] theorem noteContention_regs : (noteContention s t).regs = t.regs := by
  unfold noteContention; split <;> rfl
@[simp] theorem noteContention_sequencer : (noteContention s t).sequencer = t.sequencer := by
  unfold noteContention; split <;> rfl
@[simp] theorem noteContention_edge : (noteContention s t).edge = t.edge := by
  unfold noteContention; split <;> rfl
@[simp] theorem noteContention_store : (noteContention s t).store = t.store := by
  unfold noteContention; split <;> rfl
@[simp] theorem noteContention_pause : (noteContention s t).pause = t.pause := by
  unfold noteContention; split <;> rfl
@[simp] theorem noteContention_idle : (noteContention s t).idle = t.idle := by
  unfold noteContention; split <;> rfl
@[simp] theorem noteContention_host : (noteContention s t).host = t.host := by
  unfold noteContention; split <;> rfl
@[simp] theorem noteContention_book_draws :
    (noteContention s t).book.draws = t.book.draws := by
  unfold noteContention; split <;> rfl
@[simp] theorem noteContention_book_cpuLatch :
    (noteContention s t).book.cpuLatch = t.book.cpuLatch := by
  unfold noteContention; split <;> rfl
@[simp] theorem noteContention_book_script :
    (noteContention s t).book.script = t.book.script := by
  unfold noteContention; split <;> rfl

/-- Without a new contention nothing is recorded (R99). -/
theorem noteContention_of_not (h : contended t = false) : noteContention s t = t := by
  simp [noteContention, h]

end noteContention

section whenFree
variable {s : State} {act : State → Result}

/-- A one-step host operation when the UI is between operations. -/
@[simp] theorem whenFree_between (h : s.host.activity = .between) : whenFree s act = act s := by
  simp [whenFree, h]

/-- A one-step host operation while the UI is inside another: nothing happens. -/
theorem whenFree_busy (h : s.host.activity ≠ .between) : whenFree s act = .next s := by
  unfold whenFree; split <;> simp_all

end whenFree

/-- A bank a host may name (R125). -/
theorem withBank_ok {bank : Byte} {act : BankNumber → Result} (h : bank.toNat < 8) :
    withBank bank act = act (bank.setWidth 3) := by
  simp [withBank, Config.nBanks, h]

/-- A bank a host may not name (R125). -/
theorem withBank_refused {bank : Byte} {act : BankNumber → Result} (h : 8 ≤ bank.toNat) :
    withBank bank act = .refused .bankOutOfRange := by
  simp [withBank, Config.nBanks, Nat.not_lt.mpr h]

end Sys2Proof.Machine
end

