-- ==== Sys2Proof/Laws/Memory.lean ====
section
/-! SUPPORT. The laws of the memory: a read after a write, the canonical form, the range of the keys;
and the same for bank bytes and scratch bytes. -/

namespace Sys2Proof.Machine

namespace Memory

/-- A read after a write to the same key gives the value written. -/
@[simp] theorem lookup_store_same (m : Memory) (a : Nat) (v : Byte) :
    (m.store a v).lookup a = some v := by
  induction m with
  | nil => simp [store, lookup]
  | cons c m ih =>
    obtain ⟨k, w⟩ := c
    unfold store
    split
    · simp [lookup]
    · split
      · simp [lookup]
      · have : k ≠ a := by omega
        simp [lookup, this, ih]

/-- A write leaves every other key alone. -/
theorem lookup_store_other (m : Memory) {a a' : Nat} (v : Byte) (h : a' ≠ a) :
    (m.store a v).lookup a' = m.lookup a' := by
  induction m with
  | nil => simp [store, lookup, h.symm]
  | cons c m ih =>
    obtain ⟨k, w⟩ := c
    unfold store
    split
    · simp [lookup, h.symm]
    · split
      · subst_vars; simp [lookup, h.symm]
      · by_cases hk : k = a' <;> simp [lookup, hk, ih]

/-- A lower bound may be lowered. -/
theorem sortedFrom_mono {lo lo' : Nat} {m : Memory} (h : lo' ≤ lo) (hm : sortedFrom lo m = true) :
    sortedFrom lo' m = true := by
  cases m with
  | nil => rfl
  | cons c m =>
    obtain ⟨k, w⟩ := c
    simp [sortedFrom] at hm ⊢
    exact ⟨by omega, hm.2⟩

/-- A write at or above the lower bound keeps the keys rising. -/
theorem sortedFrom_store {lo : Nat} {m : Memory} (a : Nat) (v : Byte) (h : lo ≤ a)
    (hm : sortedFrom lo m = true) : sortedFrom lo (m.store a v) = true := by
  induction m generalizing lo with
  | nil => simp [store, sortedFrom, h]
  | cons c m ih =>
    obtain ⟨k, w⟩ := c
    have hk := hm
    simp [sortedFrom] at hk
    unfold store
    split
    · simp [sortedFrom, h, hk.2]; omega
    · split
      · subst_vars; simp [sortedFrom, h, hk.2]
      · simp only [sortedFrom, Bool.and_eq_true, decide_eq_true_eq]
        exact ⟨hk.1, ih (by omega) hk.2⟩

/-- Every write keeps the canonical form. -/
@[simp] theorem wf_store {m : Memory} (a : Nat) (v : Byte) (hm : m.wf = true) :
    (m.store a v).wf = true := sortedFrom_store a v (Nat.zero_le _) hm

/-- A write below a bound keeps every key below it. -/
theorem below_store {n : Nat} {m : Memory} {a : Nat} (v : Byte) (ha : a < n)
    (hm : m.below n = true) : (m.store a v).below n = true := by
  induction m with
  | nil => simp [store, below, ha]
  | cons c m ih =>
    obtain ⟨k, w⟩ := c
    have hk : k < n ∧ below n m = true := by simpa [below] using hm
    unfold store
    split
    · simpa [below, ha] using hm
    · split
      · simpa [below, ha] using hk.2
      · simpa [below, hk.1] using ih hk.2

end Memory

/-- Distinct bank bytes have distinct keys (R48). -/
theorem bankKey_inj {b b' : BankNumber} {i i' : BankIndex} (h : bankKey b i = bankKey b' i') :
    b = b' ∧ i = i' := by
  have hi := i.isLt
  have hi' := i'.isLt
  simp [bankKey, Config.bankSize] at h
  constructor <;> apply BitVec.eq_of_toNat_eq <;> omega

/-- Every bank byte's key lies in the bank store's space (R48). -/
theorem bankKey_lt (b : BankNumber) (i : BankIndex) : bankKey b i < 8 * 32768 := by
  have hb := b.isLt
  have hi := i.isLt
  simp [bankKey, Config.bankSize]; omega

/-- A bank byte after a write to it. -/
@[simp] theorem bankByte_setBankByte_same (s : State) (b : BankNumber) (i : BankIndex) (v : Byte) :
    bankByte (setBankByte b i v s) b i = v := by
  simp [bankByte]

/-- A bank byte after a write to another. -/
theorem bankByte_setBankByte_other (s : State) {b b' : BankNumber} {i i' : BankIndex} (v : Byte)
    (h : ¬(b' = b ∧ i' = i)) : bankByte (setBankByte b i v s) b' i' = bankByte s b' i' := by
  have hk : bankKey b' i' ≠ bankKey b i := fun e => h (bankKey_inj e)
  simp [bankByte, Memory.lookup_store_other _ _ hk]

/-- Bank bytes are a function of the bank memory alone. -/
theorem bankByte_congr {s t : State} (h : t.store.bank = s.store.bank) (b : BankNumber)
    (i : BankIndex) : bankByte t b i = bankByte s b i := by
  simp [bankByte, h]

/-- A scratch byte after a write to it. -/
@[simp] theorem scratchByte_setScratchByte_same (s : State) (i : Nat) (v : Byte) :
    scratchByte (setScratchByte i v s) i = v := by
  simp [scratchByte]

/-- A scratch byte after a write to another. -/
theorem scratchByte_setScratchByte_other (s : State) {i i' : Nat} (v : Byte) (h : i' ≠ i) :
    scratchByte (setScratchByte i v s) i' = scratchByte s i' := by
  simp [scratchByte, Memory.lookup_store_other _ _ h]

/-- Scratch bytes are a function of the scratch memory and its fill alone. -/
theorem scratchByte_congr {s t : State} (h : t.store.scratch = s.store.scratch)
    (f : t.store.scratchFill = s.store.scratchFill) (i : Nat) : scratchByte t i = scratchByte s i := by
  simp [scratchByte, h, f]

/-- After a `DecodeError` every scratch byte is a free value (U11). -/
@[simp] theorem scratchByte_forgetScratch (s : State) (i : Nat) :
    scratchByte (forgetScratch s) i = Config.freeScratchByte (s.store.scratchFill + 1) i := rfl

/-- Writing a bank byte keeps the store's form (R37). -/
theorem storeWf_setBankByte {s : State} (b : BankNumber) (i : BankIndex) (v : Byte)
    (h : storeWf s.store = true) : storeWf (setBankByte b i v s).store = true := by
  simp only [storeWf, Bool.and_eq_true] at h ⊢
  exact ⟨⟨⟨Memory.wf_store _ _ h.1.1.1, Memory.below_store _ (bankKey_lt b i) h.1.1.2⟩, h.1.2⟩, h.2⟩

/-- Writing a scratch byte inside the buffer keeps the store's form (R40). -/
theorem storeWf_setScratchByte {s : State} {i : Nat} (v : Byte) (hi : i < 32768)
    (h : storeWf s.store = true) : storeWf (setScratchByte i v s).store = true := by
  simp only [storeWf, Bool.and_eq_true] at h ⊢
  exact ⟨⟨h.1.1, Memory.wf_store _ _ h.1.2⟩, Memory.below_store _ hi h.2⟩

/-- Forgetting the scratch buffer keeps the store's form. -/
theorem storeWf_forgetScratch {s : State} (h : storeWf s.store = true) :
    storeWf (forgetScratch s).store = true := by
  simp only [storeWf, Bool.and_eq_true] at h ⊢
  exact ⟨⟨h.1.1, rfl⟩, rfl⟩

/-- Changing a name keeps the store's form. -/
theorem storeWf_setName {s : State} (b : BankNumber) (n : BankName) (h : storeWf s.store = true) :
    storeWf (setName b n s).store = true := h

end Sys2Proof.Machine
end

