-- ==== Sys2Proof/Laws/Ops.lean ====
section
/-! SUPPORT. One lemma for each shared operation, saying all it can do: sampling, the neutral state,
driving, entry and return, the edge detector, the decoder's stores. -/

namespace Sys2Proof.Machine

/-! ### Sampling (R95, R96) -/

/-- Reading the shared lines changes at most the counter of free values. -/
theorem sharedIn_state (s : State) :
    (sharedIn s).2 = s ∨ (sharedIn s).2 = (draw8 s).2 := by
  unfold sharedIn; split <;> (try split) <;> simp

/-- A sample's state: as before, or with one more free value drawn. -/
theorem sampled_state (s : State) : (sampled s).2 = s ∨ (sampled s).2 = (draw8 s).2 := by
  unfold sampled; split
  · exact sharedIn_state s
  · exact .inr rfl

/-- A settled sample of a phase in which the environment drives the shared lines. -/
theorem sampled_lowAddr {s : State} (hm : s.arb.mux = .lowAddrIn) (hi : s.arb.shMode = .input)
    (hs : s.arb.settled = true) : sampled s = (lowByte s.env.a, s) := by
  simp [sampled, sharedIn, hm, hi, hs]

/-- As `sampled_lowAddr`, for the high address byte. -/
theorem sampled_highAddr {s : State} (hm : s.arb.mux = .highAddrIn) (hi : s.arb.shMode = .input)
    (hs : s.arb.settled = true) : sampled s = (highByte s.env.a, s) := by
  simp [sampled, sharedIn, hm, hi, hs]

/-- As `sampled_lowAddr`, for the data byte a CPU drives. -/
theorem sampled_data {s : State} (hm : s.arb.mux = .dataIn) (hi : s.arb.shMode = .input)
    (hs : s.arb.settled = true) (hd : s.env.dcpuDrv = true) : sampled s = (s.env.dcpu, s) := by
  simp [sampled, sharedIn, hm, hi, hs, hd]

/-- With the engine's own byte on the Data channel, a settled sample reads it back. -/
theorem sampled_driven {s : State} (hm : s.arb.mux = .dataOut) (ho : s.arb.shMode = .output)
    (hs : s.arb.settled = true) : sampled s = (s.arb.shOut, s) := by
  simp [sampled, sharedIn, hm, ho, hs]

/-- With the engine's own pins driving into another channel, a sample is any byte (decision D7). -/
theorem sampled_output_other {s : State} (hm : s.arb.mux ≠ .dataOut) (ho : s.arb.shMode = .output) :
    sampled s = draw8 s := by
  unfold sampled sharedIn
  split
  · cases h : s.arb.mux <;> simp_all
  · rfl

/-- What a sample leaves unchanged: everything but a scratch register, the history and the counter of
free values. -/
theorem sample_frame (r : SampReg) (s : State) :
    (sample r s).env = s.env ∧ (sample r s).arb = s.arb ∧ (sample r s).sequencer = s.sequencer ∧
      (sample r s).edge = s.edge ∧ (sample r s).store = s.store ∧ (sample r s).pause = s.pause ∧
      (sample r s).idle = s.idle ∧ (sample r s).host = s.host ∧
      (sample r s).book.script = s.book.script ∧ (sample r s).book.cpuLatch = s.book.cpuLatch := by
  cases r <;> rcases sampled_state s with h | h <;> simp [sample, writeSampled, h]

section sampleFields
variable (r : SampReg) (s : State)

@[simp] theorem sample_env : (sample r s).env = s.env := (sample_frame r s).1
@[simp] theorem sample_arb : (sample r s).arb = s.arb := (sample_frame r s).2.1
@[simp] theorem sample_sequencer : (sample r s).sequencer = s.sequencer := (sample_frame r s).2.2.1
@[simp] theorem sample_edge : (sample r s).edge = s.edge := (sample_frame r s).2.2.2.1
@[simp] theorem sample_store : (sample r s).store = s.store := (sample_frame r s).2.2.2.2.1
@[simp] theorem sample_pause : (sample r s).pause = s.pause := (sample_frame r s).2.2.2.2.2.1
@[simp] theorem sample_idle : (sample r s).idle = s.idle := (sample_frame r s).2.2.2.2.2.2.1
@[simp] theorem sample_host : (sample r s).host = s.host := (sample_frame r s).2.2.2.2.2.2.2.1
@[simp] theorem sample_script : (sample r s).book.script = s.book.script :=
  (sample_frame r s).2.2.2.2.2.2.2.2.1

end sampleFields

/-! ### Selecting, returning to neutral, driving (R90, R91, R94) -/

/-- `SELP p` writes the six lines and `settled`; it may record a contention. -/
theorem selectPhase_spec (p : MuxState) (s : State) :
    (selectPhase p s).arb = { s.arb with mux := p, settled := false } ∧
      (selectPhase p s).env = s.env ∧ (selectPhase p s).regs = s.regs ∧
      (selectPhase p s).sequencer = s.sequencer ∧ (selectPhase p s).edge = s.edge ∧
      (selectPhase p s).store = s.store ∧ (selectPhase p s).pause = s.pause ∧
      (selectPhase p s).idle = s.idle ∧ (selectPhase p s).host = s.host ∧
      (selectPhase p s).book.script = s.book.script ∧
      (selectPhase p s).book.draws = s.book.draws := by
  simp [selectPhase]

/-- A phase in which the engine samples begins no contention (R98). -/
theorem selectPhase_input {p : MuxState} (hp : p ≠ .dataOut) (s : State) :
    selectPhase p s = { s with arb.mux := p, arb.settled := false } := by
  unfold selectPhase
  apply noteContention_of_not
  cases p <;> simp_all [contended, engineDrives]

/-- `NEUT` writes the six lines and `settled`; it records the end of a drive. -/
theorem neutral_spec (s : State) :
    (neutral s).arb = { s.arb with mux := .neutral, settled := false } ∧
      (neutral s).env = s.env ∧ (neutral s).regs = s.regs ∧
      (neutral s).sequencer = s.sequencer ∧ (neutral s).edge = s.edge ∧
      (neutral s).store = s.store ∧ (neutral s).pause = s.pause ∧ (neutral s).idle = s.idle ∧
      (neutral s).host = s.host ∧ (neutral s).book.script = s.book.script ∧
      (neutral s).book.draws = s.book.draws ∧ (neutral s).book.cpuLatch = s.book.cpuLatch := by
  unfold neutral; split <;> simp

section neutralFields
variable (s : State)

@[simp] theorem neutral_arb :
    (neutral s).arb = { s.arb with mux := .neutral, settled := false } := (neutral_spec s).1
@[simp] theorem neutral_env : (neutral s).env = s.env := (neutral_spec s).2.1
@[simp] theorem neutral_regs : (neutral s).regs = s.regs := (neutral_spec s).2.2.1
@[simp] theorem neutral_sequencer : (neutral s).sequencer = s.sequencer := (neutral_spec s).2.2.2.1
@[simp] theorem neutral_edge : (neutral s).edge = s.edge := (neutral_spec s).2.2.2.2.1
@[simp] theorem neutral_store : (neutral s).store = s.store := (neutral_spec s).2.2.2.2.2.1
@[simp] theorem neutral_pause : (neutral s).pause = s.pause := (neutral_spec s).2.2.2.2.2.2.1
@[simp] theorem neutral_idle : (neutral s).idle = s.idle := (neutral_spec s).2.2.2.2.2.2.2.1
@[simp] theorem neutral_host : (neutral s).host = s.host := (neutral_spec s).2.2.2.2.2.2.2.2.1
@[simp] theorem neutral_script : (neutral s).book.script = s.book.script :=
  (neutral_spec s).2.2.2.2.2.2.2.2.2.1

end neutralFields

section selectFields
variable (p : MuxState) (s : State)

@[simp] theorem selectPhase_arb :
    (selectPhase p s).arb = { s.arb with mux := p, settled := false } := (selectPhase_spec p s).1
@[simp] theorem selectPhase_env : (selectPhase p s).env = s.env := (selectPhase_spec p s).2.1
@[simp] theorem selectPhase_regs : (selectPhase p s).regs = s.regs := (selectPhase_spec p s).2.2.1
@[simp] theorem selectPhase_sequencer : (selectPhase p s).sequencer = s.sequencer :=
  (selectPhase_spec p s).2.2.2.1
@[simp] theorem selectPhase_edge : (selectPhase p s).edge = s.edge :=
  (selectPhase_spec p s).2.2.2.2.1
@[simp] theorem selectPhase_store : (selectPhase p s).store = s.store :=
  (selectPhase_spec p s).2.2.2.2.2.1
@[simp] theorem selectPhase_pause : (selectPhase p s).pause = s.pause :=
  (selectPhase_spec p s).2.2.2.2.2.2.1
@[simp] theorem selectPhase_idle : (selectPhase p s).idle = s.idle :=
  (selectPhase_spec p s).2.2.2.2.2.2.2.1
@[simp] theorem selectPhase_host : (selectPhase p s).host = s.host :=
  (selectPhase_spec p s).2.2.2.2.2.2.2.2.1
@[simp] theorem selectPhase_script : (selectPhase p s).book.script = s.book.script :=
  (selectPhase_spec p s).2.2.2.2.2.2.2.2.2.1

end selectFields

/-- `SELP DataOut` with `SHOUT v`: the arbiter drives `v`, the drive is recorded, and a contention if
the CPU drives too. -/
theorem driveData_spec (v : Byte) (s : State) :
    (driveData v s).arb = { mux := .dataOut, settled := false, shOut := v, shMode := .output } ∧
      (driveData v s).env = s.env ∧ (driveData v s).regs = s.regs ∧
      (driveData v s).sequencer = s.sequencer ∧ (driveData v s).edge = s.edge ∧
      (driveData v s).store = s.store ∧ (driveData v s).pause = s.pause ∧
      (driveData v s).idle = s.idle ∧ (driveData v s).host = s.host ∧
      (driveData v s).book.script = s.book.script := by
  simp [driveData]

section driveFields
variable (v : Byte) (s : State)

@[simp] theorem driveData_arb :
    (driveData v s).arb = { mux := .dataOut, settled := false, shOut := v, shMode := .output } :=
  (driveData_spec v s).1
@[simp] theorem driveData_env : (driveData v s).env = s.env := (driveData_spec v s).2.1
@[simp] theorem driveData_regs : (driveData v s).regs = s.regs := (driveData_spec v s).2.2.1
@[simp] theorem driveData_sequencer : (driveData v s).sequencer = s.sequencer :=
  (driveData_spec v s).2.2.2.1
@[simp] theorem driveData_edge : (driveData v s).edge = s.edge := (driveData_spec v s).2.2.2.2.1
@[simp] theorem driveData_store : (driveData v s).store = s.store :=
  (driveData_spec v s).2.2.2.2.2.1
@[simp] theorem driveData_pause : (driveData v s).pause = s.pause :=
  (driveData_spec v s).2.2.2.2.2.2.1
@[simp] theorem driveData_idle : (driveData v s).idle = s.idle :=
  (driveData_spec v s).2.2.2.2.2.2.2.1
@[simp] theorem driveData_host : (driveData v s).host = s.host :=
  (driveData_spec v s).2.2.2.2.2.2.2.2.1
@[simp] theorem driveData_script : (driveData v s).book.script = s.book.script :=
  (driveData_spec v s).2.2.2.2.2.2.2.2.2

end driveFields

/-! ### The bank write (R119) -/

section bankWriteFields
variable (b : BankNumber) (a : Addr) (v : Byte) (s : State)

@[simp] theorem bankWrite_env : (bankWrite b a v s).env = s.env := rfl
@[simp] theorem bankWrite_arb : (bankWrite b a v s).arb = s.arb := rfl
@[simp] theorem bankWrite_regs : (bankWrite b a v s).regs = s.regs := rfl
@[simp] theorem bankWrite_sequencer : (bankWrite b a v s).sequencer = s.sequencer := rfl
@[simp] theorem bankWrite_edge : (bankWrite b a v s).edge = s.edge := rfl
@[simp] theorem bankWrite_pause : (bankWrite b a v s).pause = s.pause := rfl
@[simp] theorem bankWrite_idle : (bankWrite b a v s).idle = s.idle := rfl
@[simp] theorem bankWrite_host : (bankWrite b a v s).host = s.host := rfl
@[simp] theorem bankWrite_script : (bankWrite b a v s).book.script = s.book.script := rfl
@[simp] theorem bankWrite_store :
    (bankWrite b a v s).store = (setBankByte b (bankIdx a) v s).store := rfl

/-- A bank write is read back, and touches no other byte (R119). -/
theorem bankByte_bankWrite (b' : BankNumber) (i : BankIndex) :
    bankByte (bankWrite b a v s) b' i =
      if b' = b ∧ i = bankIdx a then v else bankByte s b' i := by
  have h : bankByte (bankWrite b a v s) b' i = bankByte (setBankByte b (bankIdx a) v s) b' i :=
    bankByte_congr rfl b' i
  rw [h]
  split
  · next e => obtain ⟨rfl, rfl⟩ := e; simp
  · next e => exact bankByte_setBankByte_other s v e

end bankWriteFields

/-! ### Entering and leaving a handler (R168, R170) -/

/-- Entry into the I/O handler. -/
theorem enterHandler_io (s : State) :
    enterHandler .io s =
      { s with edge.pendIo := false, sequencer := .io .io0, regs.kind := .ioCycle,
               book.hist := s.book.hist ++ [.enter .io] } := rfl

/-- Entry into the memory handler. -/
theorem enterHandler_mem (s : State) :
    enterHandler .mem s =
      { s with edge.pendMem := false, sequencer := .mem .m0,
               book.hist := s.book.hist ++ [.enter .mem] } := rfl

/-- A return leaves everything but the sequencer and the history. -/
theorem leaveHandler_spec (s : State) :
    (leaveHandler s).sequencer = .idle ∧ (leaveHandler s).env = s.env ∧
      (leaveHandler s).arb = s.arb ∧ (leaveHandler s).regs = s.regs ∧
      (leaveHandler s).edge = s.edge ∧ (leaveHandler s).store = s.store ∧
      (leaveHandler s).pause = s.pause ∧ (leaveHandler s).idle = s.idle ∧
      (leaveHandler s).host = s.host ∧ (leaveHandler s).book.script = s.book.script := by
  unfold leaveHandler; split <;> simp_all

section leaveFields
variable (s : State)

@[simp] theorem leaveHandler_sequencer : (leaveHandler s).sequencer = .idle :=
  (leaveHandler_spec s).1
@[simp] theorem leaveHandler_env : (leaveHandler s).env = s.env := (leaveHandler_spec s).2.1
@[simp] theorem leaveHandler_arb : (leaveHandler s).arb = s.arb := (leaveHandler_spec s).2.2.1
@[simp] theorem leaveHandler_regs : (leaveHandler s).regs = s.regs := (leaveHandler_spec s).2.2.2.1
@[simp] theorem leaveHandler_edge : (leaveHandler s).edge = s.edge :=
  (leaveHandler_spec s).2.2.2.2.1
@[simp] theorem leaveHandler_store : (leaveHandler s).store = s.store :=
  (leaveHandler_spec s).2.2.2.2.2.1
@[simp] theorem leaveHandler_pause : (leaveHandler s).pause = s.pause :=
  (leaveHandler_spec s).2.2.2.2.2.2.1
@[simp] theorem leaveHandler_idle : (leaveHandler s).idle = s.idle :=
  (leaveHandler_spec s).2.2.2.2.2.2.2.1
@[simp] theorem leaveHandler_host : (leaveHandler s).host = s.host :=
  (leaveHandler_spec s).2.2.2.2.2.2.2.2.1
@[simp] theorem leaveHandler_script : (leaveHandler s).book.script = s.book.script :=
  (leaveHandler_spec s).2.2.2.2.2.2.2.2.2

end leaveFields

/-! ### The edge detector (R163) -/

/-- What the look at `IORQ_n` does: it remembers the level, and a fall sets the latch. -/
theorem observeIorq_spec (s : State) :
    (observeIorq s).edge =
        { s.edge with prevIorq := s.env.iorqN,
                      pendIo := s.edge.pendIo || fell s.edge.prevIorq s.env.iorqN } ∧
      (observeIorq s).env = s.env ∧ (observeIorq s).arb = s.arb ∧ (observeIorq s).regs = s.regs ∧
      (observeIorq s).sequencer = s.sequencer ∧ (observeIorq s).store = s.store ∧
      (observeIorq s).pause = s.pause ∧ (observeIorq s).idle = s.idle ∧
      (observeIorq s).host = s.host ∧ (observeIorq s).book.script = s.book.script := by
  unfold observeIorq; split <;> simp_all

/-- What the look at `MREQ_n` does. -/
theorem observeMreq_spec (s : State) :
    (observeMreq s).edge =
        { s.edge with prevMreq := s.env.mreqN,
                      pendMem := s.edge.pendMem || fell s.edge.prevMreq s.env.mreqN } ∧
      (observeMreq s).env = s.env ∧ (observeMreq s).arb = s.arb ∧ (observeMreq s).regs = s.regs ∧
      (observeMreq s).sequencer = s.sequencer ∧ (observeMreq s).store = s.store ∧
      (observeMreq s).pause = s.pause ∧ (observeMreq s).idle = s.idle ∧
      (observeMreq s).host = s.host ∧ (observeMreq s).book.script = s.book.script := by
  unfold observeMreq; split <;> simp_all

/-! ### The decoder (R137, R139) -/

/-- What a data byte does: it is stored and the cursor moves on, or past the buffer it is an error. -/
theorem storeByte_cases (v : Byte) (s : State) :
    (s.host.dec.cursor < 32768 ∧
        storeByte v s =
          setDec { s.host.dec with cursor := s.host.dec.cursor + 1,
                                   written := insertOffset s.host.dec.cursor s.host.dec.written }
            (setScratchByte s.host.dec.cursor v s)) ∨
      (32768 ≤ s.host.dec.cursor ∧ storeByte v s = raiseDecodeError s) := by
  by_cases h : s.host.dec.cursor < 32768
  · exact .inl ⟨h, by simp [storeByte, Config.bankSize, h]⟩
  · exact .inr ⟨by omega, by simp [storeByte, Config.bankSize, h]⟩

/-- What an origin does: in range it sets the cursor, out of range it is an error. -/
theorem applyOrigin_cases (o : BitVec 16) (s : State) :
    (0x1800 ≤ o.toNat ∧ o.toNat ≤ 0x97FF ∧
        applyOrigin o s = setDec { s.host.dec with cursor := o.toNat - 0x1800 } s) ∨
      ((o.toNat < 0x1800 ∨ 0x97FF < o.toNat) ∧ applyOrigin o s = raiseDecodeError s) := by
  by_cases h : o.toNat < 0x1800 ∨ 32768 ≤ o.toNat - 0x1800
  · exact .inr ⟨by omega, by simp [applyOrigin, Config.originBias, Config.bankSize, h]⟩
  · exact .inl ⟨by omega, by omega, by simp [applyOrigin, Config.originBias, Config.bankSize, h]⟩

/-- An action guarded against split units performs it, or is refused. -/
theorem unlessSplit_cases (s : State) (act : State → State) :
    (splitPending s.host.dec = false ∧ unlessSplit s act = .next (act s)) ∨
      (splitPending s.host.dec = true ∧ unlessSplit s act = .refused .splitUnit) := by
  unfold unlessSplit; split <;> simp_all

/-- What a guarded action gives, when it gives a next state. -/
theorem unlessSplit_next {s t : State} {act : State → State} (h : unlessSplit s act = .next t) :
    t = act s := by
  rcases unlessSplit_cases s act with ⟨_, e⟩ | ⟨_, e⟩ <;> rw [e] at h <;> cases h
  rfl

/-- A character's action performs it or refuses a split unit; it never faults (R143). -/
theorem charAct_answers (c : Byte) (s : State) :
    (∃ t, charAct c s = .next t) ∨ charAct c s = .refused .splitUnit := by
  have u : ∀ act, (∃ t, unlessSplit s act = .next t) ∨ unlessSplit s act = .refused .splitUnit :=
    fun act => (unlessSplit_cases s act).imp (fun h => ⟨_, h.2⟩) (fun h => h.2)
  unfold charAct
  split
  · exact u _
  all_goals first
    | exact .inl ⟨_, rfl⟩
    | (unfold hashMark; split <;> first | exact .inl ⟨_, rfl⟩ | exact u _)
    | (unfold originMark; split <;> first | exact .inl ⟨_, rfl⟩ | exact u _)
    | (unfold separator; split <;> first | exact .inl ⟨_, rfl⟩ | exact u _)

/-- The step that reads a character is the character's action; the UI goes on while the decode does. -/
theorem readChar_next {c : Byte} {u : UiActivity} {s t : State} (h : readChar c u s = .next t) :
    ∃ w, charAct c s = .next w ∧ t = setActivity (if decodeRunning w then u else .between) w := by
  unfold readChar at h
  split at h <;> cases h
  exact ⟨_, ‹_›, rfl⟩

/-- The text of a buffer with one byte more. -/
theorem encodeFrom_append (vs : List Byte) (v : Byte) (i : Nat) :
    encodeFrom i (vs ++ [v]) = encodeFrom i vs ++ encodeByte (i + vs.length) v := by
  induction vs generalizing i with
  | nil => simp [encodeFrom]
  | cons w vs ih => simp [encodeFrom, ih, Nat.add_assoc, Nat.add_comm 1]

/-- A set of offsets stays in rising order when one is added. -/
theorem risingFrom_insertOffset {lo i : Nat} {js : List Nat} (h : lo ≤ i)
    (hj : risingFrom lo js = true) : risingFrom lo (insertOffset i js) = true := by
  induction js generalizing lo with
  | nil => simp [insertOffset, risingFrom, h]
  | cons j js ih =>
    have hk := hj
    simp [risingFrom] at hk
    unfold insertOffset
    split
    · simp [risingFrom, h, hk.2]; omega
    · split
      · subst_vars; exact hj
      · simp only [risingFrom, Bool.and_eq_true, decide_eq_true_eq]
        exact ⟨hk.1, ih (by omega) hk.2⟩

/-- Membership after one offset is added. -/
@[simp] theorem mem_insertOffset {i k : Nat} {js : List Nat} :
    k ∈ insertOffset i js ↔ k = i ∨ k ∈ js := by
  induction js with
  | nil => simp [insertOffset]
  | cons j js ih =>
    unfold insertOffset
    split
    · simp
    · split
      · subst_vars; simp
      · simp [ih]; tauto

/-! ### Repeated performance -/

/-- Performing an operation once. -/
theorem repeatExec_one {i : Instr} {s t : State} (h : exec i s = .next t) :
    repeatExec i 1 s = .next t := by
  unfold repeatExec; rw [h]; rfl

/-- One performance, then the others. -/
theorem repeatExec_succ {i : Instr} {s t : State} (n : Nat) (h : exec i s = .next t) :
    repeatExec i (n + 1) s = repeatExec i n t := by
  rw [repeatExec, h]

/-- Some performances, then the others. -/
theorem repeatExec_add {i : Instr} {s t : State} (m n : Nat) (h : repeatExec i m s = .next t) :
    repeatExec i (m + n) s = repeatExec i n t := by
  induction m generalizing s with
  | zero => cases h; simp
  | succ m ih =>
    cases he : exec i s with
    | next u =>
      rw [repeatExec_succ m he] at h
      rw [show m + 1 + n = (m + n) + 1 by omega, repeatExec_succ _ he]
      exact ih h
    | fault r => simp [repeatExec, he] at h
    | refused r => simp [repeatExec, he] at h

end Sys2Proof.Machine
end

