-- ==== Sys2Proof/Laws/PerInstr.lean ====
section
/-! SUPPORT. For every operation: its line is read back as that operation, in every parser state its
row is for. -/

namespace Sys2Proof.Laws

/-- Two bytes of an address give the address back. -/
theorem addrOf_bytes (a : Addr) : addrOf (lowByte a) (highByte a) = a := by
  unfold addrOf lowByte highByte
  apply BitVec.eq_of_getLsbD_eq
  intro i hi
  simp only [BitVec.getLsbD_append, BitVec.getLsbD_extractLsb']
  split
  · simp_all
  · simp_all; omega

/-- The digits of a number give the number back, whatever the recursion bound above it. -/
theorem natOfBytes_natBytesAux (f n : Nat) (h : n ≤ f) : natOfBytes (natBytesAux f n) = n := by
  induction f generalizing n with
  | zero => simp at h; subst h; rfl
  | succ f ih =>
    unfold natBytesAux
    split
    · next h0 => simp [h0, natOfBytes]
    · have hlt : n / 256 ≤ f := by omega
      simp only [natOfBytes, ih _ hlt, BitVec.toNat_ofNat]
      omega

/-- The digits of a number give the number back. -/
theorem natOfBytes_natBytes (n : Nat) : natOfBytes (natBytes n) = n :=
  natOfBytes_natBytesAux n n (Nat.le_refl n)

/-- A bank number in a byte. -/
theorem bankNumber_byte (b : BankNumber) :
    (b.setWidth 8 : Byte).toNat < 8 ∧ (b.setWidth 8 : Byte).setWidth 3 = b := by
  constructor
  · have := b.isLt; simp; omega
  · ext i hi; simp

/-- Every `CYC` word is read as its row. -/
theorem decodeCyc_word (t m r w c : Bool) :
    decodeCyc (cycWord t m r w c) =
      match t, m, r, w, c with
      | false, false, false, w, c => .ok (.memrd w c)
      | false, false, true, w, c => .ok (.memAbortRdInactive w c)
      | false, true, r, w, c => .ok (.memAbortMreqInactive r w c)
      | true, m, r, false, false => .ok (.iowrMem m r)
      | true, m, r, false, true => .ok (.iowrCon m r)
      | true, m, r, true, c => .ok (.ioNowr m r c) := by
  revert t m r w c; decide

/-- Every line mask is read as its set. -/
theorem decodeTst_lines (l : LineSet) (h : l.nonempty = true) :
    decodeTst (encodeLines l) = .ok (.tst l) := by
  obtain ⟨a, b, c, d⟩ := l
  revert h; revert a b c d; decide

/-- A decimal digit character is read as its digit. -/
theorem decodeChar_digit (d : BitVec 4) (h : digitOk d = true) :
    decodeChar .normal (digitChar d) = .chHexNormalDigit d ∧
      decodeChar .inOrigin (digitChar d) = .chHexOriginDigit d := by
  revert d; decide

/-- An upper-case letter is read as its letter. -/
theorem decodeChar_upper (l : BitVec 3) (h : letterOk l = true) :
    decodeChar .normal (upperChar l) = .chHexNormalUpper l ∧
      decodeChar .inOrigin (upperChar l) = .chHexOriginUpper l := by
  revert l; decide

/-- A lower-case letter is read as its letter. -/
theorem decodeChar_lower (l : BitVec 3) (h : letterOk l = true) :
    decodeChar .normal (lowerChar l) = .chHexNormalLower l ∧
      decodeChar .inOrigin (lowerChar l) = .chHexOriginLower l := by
  revert l; decide

namespace RoundTrip

/-- A well-formed operation's line is read back as the operation. -/
def Statement (i : Instr) : Prop :=
  ∀ p, wellFormed i = true → readIn p i = true → decode p (encode i) = .ok i

theorem selpLowAddrIn : Statement .selpLowAddrIn := by
  intro p hw hr
  rfl

theorem selpHighAddrIn : Statement .selpHighAddrIn := by
  intro p hw hr
  rfl

theorem selpDataIn : Statement .selpDataIn := by
  intro p hw hr
  rfl

theorem selpDataOut : Statement .selpDataOut := by
  intro p hw hr
  rfl

theorem neut : Statement .neut := by
  intro p hw hr
  rfl

theorem settle (k : SettlePoint) : Statement (.settle k) := by
  intro p hw hr
  cases k <;> rfl

theorem shin : Statement .shin := by
  intro p hw hr
  rfl

theorem shout (v : Byte) : Statement (.shout v) := by
  intro p hw hr
  rfl

theorem samp (r : SampReg) : Statement (.samp r) := by
  intro p hw hr
  cases r <;> rfl

theorem tst (l : LineSet) : Statement (.tst l) := by
  intro p hw hr
  simpa [encode, decode, decodeOp, decodeByte] using decodeTst_lines l hw

theorem edgeIo (fallMreq : Bool) : Statement (.edgeIo fallMreq) := by
  intro p hw hr
  cases fallMreq <;> rfl

theorem edgeMem : Statement .edgeMem := by
  intro p hw hr
  rfl

theorem dispatch : Statement .dispatch := by
  intro p hw hr
  rfl

theorem iret : Statement .iret := by
  intro p hw hr
  rfl

theorem iocyc : Statement .iocyc := by
  intro p hw hr
  rfl

theorem memcyc : Statement .memcyc := by
  intro p hw hr
  rfl

theorem memrd (w c : Bool) : Statement (.memrd w c) := by
  intro p hw hr
  exact decodeCyc_word false false false w c

theorem memAbortRdInactive (w c : Bool) : Statement (.memAbortRdInactive w c) := by
  intro p hw hr
  exact decodeCyc_word false false true w c

theorem memAbortMreqInactive (r w c : Bool) : Statement (.memAbortMreqInactive r w c) := by
  intro p hw hr
  exact decodeCyc_word false true r w c

theorem iowrMem (m r : Bool) : Statement (.iowrMem m r) := by
  intro p hw hr
  exact decodeCyc_word true m r false false

theorem iowrCon (m r : Bool) : Statement (.iowrCon m r) := by
  intro p hw hr
  exact decodeCyc_word true m r false true

theorem ioNowr (m r c : Bool) : Statement (.ioNowr m r c) := by
  intro p hw hr
  exact decodeCyc_word true m r true c

theorem bankRead (b : BankNumber) (a : Addr) : Statement (.bankRead b a) := by
  intro p hw hr
  obtain ⟨h1, h2⟩ := bankNumber_byte b
  simp only [encode, decode, decodeOp, decodeBankRead, decodeBankNumber, Config.nBanks, addrOf_bytes,
    h1, h2, if_true]
  rfl

theorem bankWrite (b : BankNumber) (a : Addr) (v : Byte) : Statement (.bankWrite b a v) := by
  intro p hw hr
  obtain ⟨h1, h2⟩ := bankNumber_byte b
  simp only [encode, decode, decodeOp, decodeBankWrite, decodeBankNumber, Config.nBanks, addrOf_bytes,
    h1, h2, if_true]
  rfl

theorem read (bank : Byte) (addr : Addr) : Statement (.read bank addr) := by
  intro p hw hr
  simp [encode, decode, decodeOp, decodeRead, addrOf_bytes]

theorem write (bank : Byte) (addr : Addr) (v : Byte) : Statement (.write bank addr v) := by
  intro p hw hr
  simp [encode, decode, decodeOp, decodeWrite, addrOf_bytes]

theorem clear (bank : Byte) : Statement (.clear bank) := by
  intro p hw hr
  rfl

theorem curbank : Statement .curbank := by
  intro p hw hr
  rfl

theorem setbank (n : Int) : Statement (.setbank n) := by
  intro p hw hr
  cases n with
  | ofNat m =>
    have h : ¬((m : Int) < 0) := by omega
    simp [encode, encodeSetbank, decode, decodeOp, decodeSetbank, natOfBytes_natBytes, h]
  | negSucc m =>
    have e : -Int.ofNat (m + 1) = Int.negSucc m := rfl
    simp only [encode, encodeSetbank, Int.negSucc_lt_zero, if_true, Int.natAbs_negSucc, decode]
    simp only [decodeOp, decodeSetbank, natOfBytes_natBytes, e]
    simp

theorem remap (a : Addr) : Statement (.remap a) := by
  intro p hw hr
  simp [encode, decode, decodeOp, decodeRemap, addrOf_bytes]

theorem hexDecode (stream : List Byte) : Statement (.hexDecode stream) := by
  intro p hw hr
  rfl

theorem chLtLf : Statement .chLtLf := by
  intro p hw hr
  cases p <;> revert hw hr <;> decide

theorem chLtCr : Statement .chLtCr := by
  intro p hw hr
  cases p <;> revert hw hr <;> decide

theorem chHash : Statement .chHash := by
  intro p hw hr
  cases p <;> revert hw hr <;> decide

theorem chOrgAt : Statement .chOrgAt := by
  intro p hw hr
  cases p <;> revert hw hr <;> decide

theorem chOrgColon : Statement .chOrgColon := by
  intro p hw hr
  cases p <;> revert hw hr <;> decide

theorem chSepSpace : Statement .chSepSpace := by
  intro p hw hr
  cases p <;> revert hw hr <;> decide

theorem chSepTab : Statement .chSepTab := by
  intro p hw hr
  cases p <;> revert hw hr <;> decide

theorem chHexNormalDigit (d : BitVec 4) : Statement (.chHexNormalDigit d) := by
  intro p hw hr
  cases p <;> simp [readIn] at hr
  simp [encode, decode, decodeOp, decodeByte, (decodeChar_digit _ hw).1]

theorem chHexNormalUpper (h : BitVec 3) : Statement (.chHexNormalUpper h) := by
  intro p hw hr
  cases p <;> simp [readIn] at hr
  simp [encode, decode, decodeOp, decodeByte, (decodeChar_upper _ hw).1]

theorem chHexNormalLower (h : BitVec 3) : Statement (.chHexNormalLower h) := by
  intro p hw hr
  cases p <;> simp [readIn] at hr
  simp [encode, decode, decodeOp, decodeByte, (decodeChar_lower _ hw).1]

theorem chHexOriginDigit (d : BitVec 4) : Statement (.chHexOriginDigit d) := by
  intro p hw hr
  cases p <;> simp [readIn] at hr
  simp [encode, decode, decodeOp, decodeByte, (decodeChar_digit _ hw).2]

theorem chHexOriginUpper (h : BitVec 3) : Statement (.chHexOriginUpper h) := by
  intro p hw hr
  cases p <;> simp [readIn] at hr
  simp [encode, decode, decodeOp, decodeByte, (decodeChar_upper _ hw).2]

theorem chHexOriginLower (h : BitVec 3) : Statement (.chHexOriginLower h) := by
  intro p hw hr
  cases p <;> simp [readIn] at hr
  simp [encode, decode, decodeOp, decodeByte, (decodeChar_lower _ hw).2]

theorem chBadNormal (c : Byte) : Statement (.chBadNormal c) := by
  intro p hw hr
  cases p <;> simp [readIn] at hr
  have h := hw
  simp only [wellFormed, decide_eq_true_eq] at h
  simp only [encode, decode, decodeOp, decodeByte, decodeChar]
  simp [h]

theorem chBadOrigin (c : Byte) : Statement (.chBadOrigin c) := by
  intro p hw hr
  cases p <;> simp [readIn] at hr
  have h := hw
  simp only [wellFormed, decide_eq_true_eq] at h
  simp only [encode, decode, decodeOp, decodeByte, decodeChar]
  simp [h]

theorem chAnyComment (c : Byte) : Statement (.chAnyComment c) := by
  intro p hw hr
  cases p <;> simp [readIn] at hr
  have h := hw
  simp only [wellFormed, decide_eq_true_eq] at h
  simp only [encode, decode, decodeOp, decodeByte, decodeChar]
  cases e : charClass c <;> simp_all

theorem hexEncode (buf : List Byte) : Statement (.hexEncode buf) := by
  intro p hw hr
  have h : buf.length = Config.bankSize := by simpa [wellFormed] using hw
  simp [encode, decode, decodeOp, decodeEncode, h]

theorem save : Statement .save := by
  intro p hw hr
  rfl

theorem load (stream : List Byte) : Statement (.load stream) := by
  intro p hw hr
  rfl

theorem preq : Statement .preq := by
  intro p hw hr
  rfl

theorem pwait : Statement .pwait := by
  intro p hw hr
  rfl

theorem prel : Statement .prel := by
  intro p hw hr
  rfl

theorem ipoll : Statement .ipoll := by
  intro p hw hr
  rfl

theorem iack : Statement .iack := by
  intro p hw hr
  rfl

theorem ispin : Statement .ispin := by
  intro p hw hr
  rfl

theorem iresume : Statement .iresume := by
  intro p hw hr
  rfl

end RoundTrip

end Sys2Proof.Laws
end

