-- ==== Sys2Proof/Laws/Remapper.lean ====
section
/-! SUPPORT. The bits of a remapped address, for any permutation table and for the table of R126. -/

namespace Sys2Proof.Machine

/-- The bits gathered by the table's rows so far. -/
theorem getLsbD_remapFold (a : BankIndex) (k : Nat) (table : List (Nat × Nat)) (p : BankIndex) :
    (table.foldl (fun p sd => if a.getLsbD sd.1 then p ||| (1#15 <<< sd.2) else p) p).getLsbD k =
      (p.getLsbD k || table.any fun sd => a.getLsbD sd.1 && (decide (sd.2 = k) && decide (k < 15))) := by
  induction table generalizing p with
  | nil => simp
  | cons sd table ih =>
    have bit : (1#15 <<< sd.2).getLsbD k = (decide (sd.2 = k) && decide (k < 15)) := by
      by_cases h : sd.2 = k
      · subst h; simp
      · by_cases h2 : k < sd.2
        · simp [h, h2]
        · have : k - sd.2 ≠ 0 := by omega
          simp [h, this]
    rw [List.foldl_cons, ih, List.any_cons]
    cases ha : a.getLsbD sd.1
    · simp
    · simp [bit, Bool.or_assoc]

/-- Bit `k` of a remapped address is set when some row of the table sends a set bit there (R127). -/
theorem getLsbD_remapWith (table : List (Nat × Nat)) (a : BankIndex) (k : Nat) :
    (remapWith table a).getLsbD k =
      table.any fun sd => a.getLsbD sd.1 && (decide (sd.2 = k) && decide (k < 15)) := by
  rw [remapWith, getLsbD_remapFold]; simp

/-- The two 5-bit fields change places, the other bits stay (R128). -/
theorem getLsbD_remapAddr (a : BankIndex) (k : Nat) :
    (remapAddr a).getLsbD k =
      if k < 5 then a.getLsbD (k + 6)
      else if 6 ≤ k ∧ k ≤ 10 then a.getLsbD (k - 6)
      else a.getLsbD k := by
  rw [remapAddr, getLsbD_remapWith]
  by_cases hk : k < 15
  · have : k ∈ List.range 15 := List.mem_range.2 hk
    simp only [List.range, List.range.loop, List.mem_cons, List.not_mem_nil, or_false] at this
    rcases this with h | h | h | h | h | h | h | h | h | h | h | h | h | h | h <;> subst h <;>
      simp [remapTable]
  · have h1 : ¬k < 5 := by omega
    have h2 : ¬(6 ≤ k ∧ k ≤ 10) := by omega
    simp [hk, h1, h2, remapTable, BitVec.getLsbD_of_ge _ _ (Nat.le_of_not_lt hk)]

/-- `remap` undoes itself (R128). -/
@[simp] theorem remapAddr_remapAddr (a : BankIndex) : remapAddr (remapAddr a) = a := by
  apply BitVec.eq_of_getLsbD_eq
  intro k _
  rw [getLsbD_remapAddr]
  split
  · rw [getLsbD_remapAddr, if_neg (by omega), if_pos (by omega)]; congr 1
  · split
    · rw [getLsbD_remapAddr, if_pos (by omega)]; congr 1; omega
    · rw [getLsbD_remapAddr, if_neg ‹_›, if_neg ‹_›]

end Sys2Proof.Machine
end

