-- ==== Sys2Proof/Laws/Runs.lean ====
section
/-! SUPPORT. Runs of several steps: how they compose, what a step is while only the UI can move, and that
a `clear`, a `save` and the copy of a `load` then come to their end. -/

namespace Sys2Proof.Machine

/-! ### Composition -/

@[simp] theorem runSteps_zero (s : State) : runSteps 0 s = .next s := rfl

/-- One step, then the others. -/
theorem runSteps_succ {s t : State} (n : Nat) (h : step s = .next t) :
    runSteps (n + 1) s = runSteps n t := by
  rw [runSteps, h]

/-- A run that goes on has a first step. -/
theorem runSteps_succ_inv {s t : State} {n : Nat} (h : runSteps (n + 1) s = .next t) :
    ∃ u, step s = .next u ∧ runSteps n u = .next t := by
  cases hs : step s with
  | next u => exact ⟨u, rfl, by rwa [runSteps_succ n hs] at h⟩
  | fault r => simp [runSteps, hs] at h
  | refused r => simp [runSteps, hs] at h

/-- A run that goes on has a last step. -/
theorem runSteps_last {s t : State} {n : Nat} (h : runSteps (n + 1) s = .next t) :
    ∃ u, runSteps n s = .next u ∧ step u = .next t := by
  induction n generalizing s with
  | zero =>
    obtain ⟨u, hu, h⟩ := runSteps_succ_inv h
    cases h
    exact ⟨s, rfl, hu⟩
  | succ n ih =>
    obtain ⟨u, hu, h⟩ := runSteps_succ_inv h
    obtain ⟨v, hv, h⟩ := ih h
    exact ⟨v, by rw [runSteps_succ n hu, hv], h⟩

/-! ### A run of the UI alone -/

/-- With no turn written and the bus silent, the UI's operation is the step, if it can move. -/
theorem step_ui {s : State} {i : Instr} (hs : s.book.script = []) (hb : BusSilent s)
    (hu : uiNext s = some i) (hc : uiCanMove s = true) : step s = exec i s := by
  obtain ⟨hio, hmem, hq⟩ := hb
  have hirq : irqNext s = none := by simp [irqNext, hq, hio, hmem]
  simp [step, hs, runAgent, defaultAgent, hirq, hc, agentNext, hu]

/-- `n` steps lead from `s` to `t`, where the UI is between operations, and record no event. -/
def EndsSilently (n : Nat) (s t : State) : Prop :=
  runSteps n s = .next t ∧ t.host.activity = .between ∧
    ∀ m u, m ≤ n → runSteps m s = .next u → u.book.hist = s.book.hist

/-- One silent step before a run that ends silently. -/
theorem EndsSilently.step {n : Nat} {s t u : State} (hs : Machine.step s = .next t)
    (hh : t.book.hist = s.book.hist) (h : EndsSilently n t u) : EndsSilently (n + 1) s u := by
  refine ⟨by rw [runSteps_succ n hs]; exact h.1, h.2.1, ?_⟩
  intro m v hm hv
  cases m with
  | zero => cases hv; rfl
  | succ m =>
    rw [runSteps_succ m hs] at hv
    exact (h.2.2 m v (by omega) hv).trans hh

/-- A run that has ended. -/
theorem EndsSilently.refl {s : State} (h : s.host.activity = .between) : EndsSilently 0 s s :=
  ⟨rfl, h, fun m u hm hu => by obtain rfl : m = 0 := by omega
                               cases hu; rfl⟩

/-- A step that records no edge, then silence, is a run with R160's premise. -/
theorem noBusActivity_of_endsSilently {n : Nat} {s t u : State} {e : Event} (hb : BusSilent s)
    (hs : step s = .next t) (he : ∀ src, e ≠ .edge src) (hh : t.book.hist = s.book.hist ++ [e])
    (h : EndsSilently n t u) : NoBusActivity (n + 1) s ∧ runSteps (n + 1) s = .next u := by
  refine ⟨⟨hb, ?_⟩, by rw [runSteps_succ n hs]; exact h.1⟩
  intro m v src hm hv
  cases m with
  | zero => cases hv; simp
  | succ m =>
    rw [runSteps_succ m hs] at hv
    rw [h.2.2 m v (by omega) hv, hh]
    simp [Ne.symm (he src)]

/-- The step that goes on with a `clear`. -/
theorem step_clearing {s : State} {b : BankNumber} {i : Nat} (hs : s.book.script = [])
    (hb : BusSilent s) (ha : s.host.activity = .clearing b i) : step s = .next (clearStep b i s) := by
  rw [step_ui (i := .clear (b.setWidth 8)) hs hb (by simp [uiNext, ha]) (by simp [uiCanMove, ha])]
  simp [exec, execClear, ha]

/-- The step that goes on with the copy of a `load`. -/
theorem step_loading {s : State} {b : BankNumber} {i : Nat} (hs : s.book.script = [])
    (hb : BusSilent s) (ha : s.host.activity = .loading b i) : step s = .next (loadStep b i s) := by
  rw [step_ui (i := .load []) hs hb (by simp [uiNext, ha]) (by simp [uiCanMove, ha])]
  simp [exec, execLoad, ha]

/-- The step that goes on with the encoding of a `save`. -/
theorem step_encoding {s : State} {i : Nat} {text : List Byte} (hs : s.book.script = [])
    (hb : BusSilent s) (ha : s.host.activity = .encoding i text) :
    step s = .next (encodeStep i text s) := by
  rw [step_ui (i := .save) hs hb (by simp [uiNext, ha]) (by simp [uiCanMove, ha])]
  simp [exec, execSave, ha]

/-- The step that goes on with the fill of a `save`. -/
theorem step_saving {s : State} {b : BankNumber} {i : Nat} (hs : s.book.script = [])
    (hb : BusSilent s) (ha : s.host.activity = .saving b i) : step s = .next (saveStep b i s) := by
  rw [step_ui (i := .save) hs hb (by simp [uiNext, ha]) (by simp [uiCanMove, ha])]
  simp [exec, execSave, ha]

/-- A `clear` comes to its end. -/
theorem clear_ends (k : Nat) : ∀ (s : State) (b : BankNumber) (i : Nat), i + k = 32768 →
    s.book.script = [] → BusSilent s → s.host.activity = .clearing b i →
    ∃ t, EndsSilently (k + 1) s t := by
  induction k with
  | zero =>
    intro s b i hi hs hb ha
    have hstep := step_clearing hs hb ha
    refine ⟨_, .step hstep ?_ (.refl ?_)⟩ <;>
      simp [clearStep, Config.bankSize, show ¬ i < 32768 by omega]
  | succ k ih =>
    intro s b i hi hs hb ha
    have hstep := step_clearing hs hb ha
    have hi' : i < 32768 := by omega
    obtain ⟨t, ht⟩ := ih (clearStep b i s) b (i + 1) (by omega)
      (by simp [clearStep, Config.bankSize, hi', hs])
      (by simpa [clearStep, Config.bankSize, hi', BusSilent] using hb)
      (by simp [clearStep, Config.bankSize, hi'])
    exact ⟨t, .step hstep (by simp [clearStep, Config.bankSize, hi']) ht⟩

/-- The copy of a `load` comes to its end, with success. -/
theorem load_copy_ends (k : Nat) : ∀ (s : State) (b : BankNumber) (i : Nat), i + k = 32768 →
    s.book.script = [] → BusSilent s → s.host.activity = .loading b i →
    ∃ t, EndsSilently (k + 1) s t ∧ t.host.ret = .success ∧ t.host.dec = s.host.dec := by
  induction k with
  | zero =>
    intro s b i hi hs hb ha
    have hstep := step_loading hs hb ha
    refine ⟨_, .step hstep ?_ (.refl ?_), ?_, ?_⟩ <;>
      simp [loadStep, Config.bankSize, show ¬ i < 32768 by omega]
  | succ k ih =>
    intro s b i hi hs hb ha
    have hstep := step_loading hs hb ha
    have hi' : i < 32768 := by omega
    have hf : (loadStep b i s).book.script = s.book.script ∧
        (loadStep b i s).book.hist = s.book.hist ∧ (loadStep b i s).edge = s.edge ∧
        (loadStep b i s).sequencer = s.sequencer ∧ (loadStep b i s).host.dec = s.host.dec ∧
        (loadStep b i s).host.activity = .loading b (i + 1) := by
      unfold loadStep
      simp only [Config.bankSize, hi', if_true]
      split <;> simp_all
    obtain ⟨hsc, hh, he, hq, hd, hact⟩ := hf
    obtain ⟨t, ht, hr, hd'⟩ := ih (loadStep b i s) b (i + 1) (by omega) (hsc.trans hs)
      (by simpa [BusSilent, he, hq] using hb) hact
    exact ⟨t, .step hstep hh ht, hr, hd'.trans hd⟩

/-- The encoding of a `save` comes to its end. -/
theorem save_encoding_ends (k : Nat) : ∀ (s : State) (i : Nat) (text : List Byte), i + k = 32768 →
    s.book.script = [] → BusSilent s → s.host.activity = .encoding i text →
    ∃ t, EndsSilently (k + 1) s t := by
  induction k with
  | zero =>
    intro s i text hi hs hb ha
    have hstep := step_encoding hs hb ha
    refine ⟨_, .step hstep ?_ (.refl ?_)⟩ <;>
      simp [encodeStep, handToFile, Config.bankSize, show ¬ i < 32768 by omega]
    split <;> simp
  | succ k ih =>
    intro s i text hi hs hb ha
    have hstep := step_encoding hs hb ha
    have hi' : i < 32768 := by omega
    obtain ⟨t, ht⟩ := ih (encodeStep i text s) (i + 1) (text ++ encodeByte i (scratchByte s i))
      (by omega) (by simp [encodeStep, Config.bankSize, hi', hs])
      (by simpa [encodeStep, Config.bankSize, hi', BusSilent] using hb)
      (by simp [encodeStep, Config.bankSize, hi'])
    exact ⟨t, .step hstep (by simp [encodeStep, Config.bankSize, hi']) ht⟩

/-- A `save` comes to its end. -/
theorem save_ends (k : Nat) : ∀ (s : State) (b : BankNumber) (i : Nat), i + k = 32768 →
    s.book.script = [] → BusSilent s → s.host.activity = .saving b i →
    ∃ t, EndsSilently (k + 32769) s t := by
  induction k with
  | zero =>
    intro s b i hi hs hb ha
    have hstep : step s = .next (encodeStep 0 [] s) := by
      rw [step_saving hs hb ha]; simp [saveStep, Config.bankSize, show ¬ i < 32768 by omega]
    obtain ⟨t, ht⟩ := save_encoding_ends 32767 (encodeStep 0 [] s) 1
      ([] ++ encodeByte 0 (scratchByte s 0)) (by omega) (by simp [encodeStep, Config.bankSize, hs])
      (by simpa [encodeStep, Config.bankSize, BusSilent] using hb)
      (by simp [encodeStep, Config.bankSize])
    exact ⟨t, .step hstep (by simp [encodeStep, Config.bankSize]) ht⟩
  | succ k ih =>
    intro s b i hi hs hb ha
    have hstep := step_saving hs hb ha
    have hi' : i < 32768 := by omega
    obtain ⟨t, ht⟩ := ih (saveStep b i s) b (i + 1) (by omega)
      (by simp [saveStep, Config.bankSize, hi', hs])
      (by simpa [saveStep, Config.bankSize, hi', BusSilent] using hb)
      (by simp [saveStep, Config.bankSize, hi'])
    exact ⟨t, by
      have := EndsSilently.step hstep (by simp [saveStep, Config.bankSize, hi']) ht
      rwa [show k + 1 + 32769 = k + 32769 + 1 by omega]⟩

end Sys2Proof.Machine
end

