-- ==== Sys2Proof/Tests/Slice0.lean ====
section
/-! SUPPORT. The model's own tests. Expected values are the spec's: words from R70, R72, R75, R81,
results from the vectors V1 to V108 of 95_test_vectors.md, each named in its comment. -/

namespace Sys2Proof.Tests

open Sys2Proof.Machine

/-- A field of the next state, if there is one. -/
def after {α : Type} (f : State → α) (r : Result) : Option α :=
  match r with
  | .next s => some (f s)
  | .fault _ => none
  | .refused _ => none

/-- The refusal, if there is one. -/
def refusal (r : Result) : Option Refusal :=
  match r with
  | .refused x => some x
  | .next _ => none
  | .fault _ => none

/-- Whether there is a next state. -/
def completes (r : Result) : Bool := (after (fun _ => ()) r).isSome

/-- Reset with other inputs. -/
def withEnv (e : EnvInputs) : State := { State.reset with env := e }

/-- Reset with the sequencer at a label and the arbiter as given. -/
def at_ (q : Sequencer) (a : MuxArbiter) : State := { State.reset with sequencer := q, arb := a }

/-- The arbiter in a phase, settled, lines released. -/
def phase (p : MuxState) : MuxArbiter := { mux := p, shMode := .input, shOut := 0, settled := true }

/-- The arbiter driving a byte. -/
def driving (v : Byte) : MuxArbiter := { mux := .dataOut, shMode := .output, shOut := v, settled := true }

/-! ### Well-formedness refuses an ill-formed term for each check -/

theorem test_illFormed_tst : wellFormed (.tst ⟨false, false, false, false⟩) = false := by decide
theorem test_illFormed_digit : wellFormed (.chHexNormalDigit 10) = false := by decide
theorem test_illFormed_upper : wellFormed (.chHexNormalUpper 7) = false := by decide
theorem test_illFormed_lower : wellFormed (.chHexNormalLower 0) = false := by decide
theorem test_illFormed_originDigit : wellFormed (.chHexOriginDigit 15) = false := by decide
theorem test_illFormed_originUpper : wellFormed (.chHexOriginUpper 0) = false := by decide
theorem test_illFormed_originLower : wellFormed (.chHexOriginLower 7) = false := by decide
theorem test_illFormed_badNormal : wellFormed (.chBadNormal 0x41) = false := by decide
theorem test_illFormed_badOrigin : wellFormed (.chBadOrigin 0x0A) = false := by decide
theorem test_illFormed_comment : wellFormed (.chAnyComment 0x0D) = false := by decide
theorem test_illFormed_encode : wellFormed (.hexEncode [0]) = false := by decide

/-! ### Decoding of words written out from the spec's encodings -/

-- R72: DIR[2:0] SEL[2:0]
theorem test_decode_selpLowAddrIn : decode .normal [0x01, 0b110110] = .ok .selpLowAddrIn := by decide
theorem test_decode_selpHighAddrIn : decode .normal [0x01, 0b101101] = .ok .selpHighAddrIn := by decide
theorem test_decode_selpDataIn : decode .normal [0x01, 0b011011] = .ok .selpDataIn := by decide
theorem test_decode_selpDataOut : decode .normal [0x01, 0b111011] = .ok .selpDataOut := by decide
theorem test_decode_neut : decode .normal [0x01, 0b111111] = .ok .neut := by decide
theorem test_decode_twoSelected : decode .normal [0x01, 0b111100] = .reject (.illegalMuxctl 0x3C) := by
  decide
-- R85: selected by name; the operands in the order of R93, R95, R69
theorem test_decode_settle : decode .normal [0x10, 3] = .ok (.settle .memLow) := by decide
theorem test_decode_shin : decode .normal [0x11] = .ok .shin := by decide
theorem test_decode_shout : decode .normal [0x12, 0x99] = .ok (.shout 0x99) := by decide
theorem test_decode_samp : decode .normal [0x13, 1] = .ok (.samp .addrHi) := by decide
theorem test_decode_tst : decode .normal [0x14, 0b0101] = .ok (.tst ⟨true, false, true, false⟩) := by
  decide
-- R70: fall(IORQ_n) fall(MREQ_n)
theorem test_decode_edgeIo : decode .normal [0x02, 0b10] = .ok (.edgeIo false) := by decide
theorem test_decode_edgeMem : decode .normal [0x02, 0b01] = .ok .edgeMem := by decide
theorem test_decode_edgeBoth : decode .normal [0x02, 0b11] = .ok (.edgeIo true) := by decide
theorem test_decode_dispatch : decode .normal [0x15] = .ok .dispatch := by decide
theorem test_decode_iret : decode .normal [0x16] = .ok .iret := by decide
theorem test_decode_iocyc : decode .normal [0x20] = .ok .iocyc := by decide
theorem test_decode_memcyc : decode .normal [0x21] = .ok .memcyc := by decide
-- R75: T M R W C
theorem test_decode_memrd : decode .normal [0x03, 0b00010] = .ok (.memrd true false) := by decide
theorem test_decode_memAbortRd :
    decode .normal [0x03, 0b00101] = .ok (.memAbortRdInactive false true) := by decide
theorem test_decode_memAbortMreq :
    decode .normal [0x03, 0b01100] = .ok (.memAbortMreqInactive true false false) := by decide
theorem test_decode_iowrMem : decode .normal [0x03, 0b11000] = .ok (.iowrMem true false) := by decide
theorem test_decode_iowrCon : decode .normal [0x03, 0b10101] = .ok (.iowrCon false true) := by decide
theorem test_decode_ioNowr : decode .normal [0x03, 0b11011] = .ok (.ioNowr true false true) := by
  decide
-- R85: calls
theorem test_decode_bankRead : decode .normal [0x30, 7, 0x34, 0x12] = .ok (.bankRead 7 0x1234) := by
  decide
theorem test_decode_bankWrite :
    decode .normal [0x31, 0, 0x34, 0x12, 0x99] = .ok (.bankWrite 0 0x1234 0x99) := by decide
theorem test_decode_read : decode .normal [0x32, 8, 0, 0x80] = .ok (.read 8 0x8000) := by decide
theorem test_decode_write : decode .normal [0x33, 2, 0x10, 0, 0xAB] = .ok (.write 2 0x0010 0xAB) := by
  decide
theorem test_decode_clear : decode .normal [0x34, 1] = .ok (.clear 1) := by decide
theorem test_decode_curbank : decode .normal [0x35] = .ok .curbank := by decide
theorem test_decode_setbank : decode .normal [0x36, 0, 9] = .ok (.setbank 9) := by decide
theorem test_decode_setbankNegative : decode .normal [0x36, 1, 1] = .ok (.setbank (-1)) := by decide
theorem test_decode_remap : decode .normal [0x37, 0x34, 0x12] = .ok (.remap 0x1234) := by decide
theorem test_decode_hexDecode : decode .normal [0x38, 0x33, 0x45] = .ok (.hexDecode [0x33, 0x45]) := by
  decide
theorem test_decode_hexEncode (buf : List Byte) (h : buf.length = Config.bankSize) :
    decode .normal (0x39 :: buf) = .ok (.hexEncode buf) :=
  if_pos h
theorem test_decode_save : decode .normal [0x3A] = .ok .save := by decide
theorem test_decode_load : decode .normal [0x3B, 0x3A] = .ok (.load [0x3A]) := by decide
-- R81
theorem test_decode_lf : decode .inComment [0x04, 0b00001010] = .ok .chLtLf := by decide
theorem test_decode_cr : decode .inOrigin [0x04, 0b00001101] = .ok .chLtCr := by decide
theorem test_decode_hash : decode .normal [0x04, 0b00100011] = .ok .chHash := by decide
theorem test_decode_at : decode .normal [0x04, 0b01000000] = .ok .chOrgAt := by decide
theorem test_decode_colon : decode .inOrigin [0x04, 0b00111010] = .ok .chOrgColon := by decide
theorem test_decode_space : decode .normal [0x04, 0b00100000] = .ok .chSepSpace := by decide
theorem test_decode_tab : decode .normal [0x04, 0b00001001] = .ok .chSepTab := by decide
theorem test_decode_digit : decode .normal [0x04, 0b00111001] = .ok (.chHexNormalDigit 9) := by decide
theorem test_decode_upper : decode .normal [0x04, 0b01000110] = .ok (.chHexNormalUpper 6) := by decide
theorem test_decode_lower : decode .normal [0x04, 0b01100001] = .ok (.chHexNormalLower 1) := by decide
theorem test_decode_originDigit :
    decode .inOrigin [0x04, 0b00110000] = .ok (.chHexOriginDigit 0) := by decide
theorem test_decode_originUpper :
    decode .inOrigin [0x04, 0b01000001] = .ok (.chHexOriginUpper 1) := by decide
theorem test_decode_originLower :
    decode .inOrigin [0x04, 0b01100110] = .ok (.chHexOriginLower 6) := by decide
theorem test_decode_bad : decode .normal [0x04, 0b01000111] = .ok (.chBadNormal 0x47) := by decide
theorem test_decode_badOrigin : decode .inOrigin [0x04, 0b01100111] = .ok (.chBadOrigin 0x67) := by
  decide
theorem test_decode_comment : decode .inComment [0x04, 0b00100011] = .ok (.chAnyComment 0x23) := by
  decide
-- pause protocol
theorem test_decode_preq : decode .normal [0x40] = .ok .preq := by decide
theorem test_decode_pwait : decode .normal [0x41] = .ok .pwait := by decide
theorem test_decode_prel : decode .normal [0x42] = .ok .prel := by decide
theorem test_decode_ipoll : decode .normal [0x48] = .ok .ipoll := by decide
theorem test_decode_iack : decode .normal [0x49] = .ok .iack := by decide
theorem test_decode_ispin : decode .normal [0x4A] = .ok .ispin := by decide
theorem test_decode_iresume : decode .normal [0x4B] = .ok .iresume := by decide
theorem test_decode_unknown : decode .normal [0xFF] = .reject (.unknownSelector 255) := by decide
-- the words of spec/opcode_table.json
theorem test_tableWords :
    decodeTableWord 8 0x36 = some .selpLowAddrIn ∧ decodeTableWord 8 0x02 = some (.edgeIo false) ∧
      decodeTableWord 8 0x10 = some (.iowrMem false false) ∧
      decodeTableWord 8 0x0A = some .chLtLf ∧ decodeTableWord 5 0x1B = some (.ioNowr true false true) ∧
      decodeTableWord 0 0 = none := by decide

/-! ### Mux micro-operations -/

-- V1, V2, V3: the control word and `settled`
theorem test_selpLowAddrIn :
    after (fun t => (ctlEncode t.arb.mux, t.arb.settled)) (exec .selpLowAddrIn State.reset) =
      some (0x36, false) := by decide
theorem test_selpHighAddrIn :
    after (fun t => (ctlEncode t.arb.mux, t.arb.settled))
      (exec .selpHighAddrIn (at_ (.io .io2a) (phase .lowAddrIn))) = some (0x2D, false) := by decide
theorem test_selpDataIn :
    after (fun t => (ctlEncode t.arb.mux, t.arb.settled))
      (exec .selpDataIn (at_ (.io .io3a1) (phase .highAddrIn))) = some (0x1B, false) := by decide
theorem test_selpDataOut :
    after (fun t => (ctlEncode t.arb.mux, t.arb.settled)) (exec .selpDataOut State.reset) =
      some (0x3B, false) := by decide
-- V4: SHOUT with the Data channel routed outward
theorem test_shout :
    after (fun t => (t.arb.shMode, t.arb.shOut, t.book.hist))
      (exec (.shout 0x99) (at_ (.mem .m5a) (phase .dataOut))) =
      some (.output, 0x99, [.drive 0 0x99]) := by decide
-- V5: the mode stays Out, the drive ends
theorem test_neut :
    after (fun t => (ctlEncode t.arb.mux, t.arb.shMode, t.book.hist))
      (exec .neut (at_ (.mem .m5c) (driving 0x99))) = some (0x3F, .output, [.release]) := by decide
-- V6: sh_out keeps its value
theorem test_shin :
    after (fun t => (t.arb.shMode, t.arb.shOut)) (exec .shin (at_ (.mem .m5d) (driving 0x99))) =
      some (.input, 0x99) := by decide
theorem test_settle : after (fun t => t.arb.settled) (exec (.settle .ioLow) State.reset) = some true := by
  decide
-- V7, V8, V9
theorem test_samp_low :
    after (fun t => t.regs.addrLo)
      (exec (.samp .addrLo)
        { at_ (.io .io1d) (phase .lowAddrIn) with env := { State.reset.env with a := 0xBEEF } }) =
      some 0xEF := by decide
theorem test_samp_high :
    after (fun t => (t.regs.addrHi, t.regs.ea))
      (exec (.samp .addrHi)
        { at_ (.io .io2c) (phase .highAddrIn) with
          env := { State.reset.env with a := 0xBEEF }, regs := { State.reset.regs with addrLo := 0xEF } }) =
      some (0xBE, 0xBEEF) := by decide
-- V15
theorem test_tst :
    after (fun t => (t.host.ret, t.book.hist))
      (exec (.tst ⟨true, false, true, false⟩)
        (withEnv { State.reset.env with mreqN := .low, rdN := .high })) =
      some (.levels [(.mreq, .low), (.rd, .high)], [.test .mreq .low, .test .rd .high]) := by decide
-- V12: the CPU reads the engine's byte
theorem test_cpuBus : (cpuBus (at_ (.mem .m5b) (driving 0x99))).1 = 0x99 := by decide
-- V13: contention is recorded as the CPU begins to drive
theorem test_contention :
    (envStep { dcpuDrv := some true } (at_ (.mem .m5b) (driving 0x99))).book.hist = [.contention] := by
  decide

/-! ### Edges, dispatch, return -/

-- V100, V102
theorem test_env_fall :
    (fun t : State => (t.edge.pendIo, t.book.hist)) (envStep { iorqN := some .low } State.reset) =
      (true, [.edge .io]) := by decide
theorem test_env_rise :
    (envStep { mreqN := some .high }
      { withEnv { State.reset.env with mreqN := .low } with
        edge := { State.reset.edge with prevMreq := .low } }).edge.pendMem = false := by decide
theorem test_edgeIo_both :
    after (fun t => (t.edge.pendIo, t.edge.pendMem))
      (exec (.edgeIo true) (withEnv { State.reset.env with iorqN := .low, mreqN := .low })) =
      some (true, true) := by decide
theorem test_edgeMem :
    after (fun t => (t.edge.pendMem, t.edge.pendIo))
      (exec .edgeMem (withEnv { State.reset.env with iorqN := .low, mreqN := .low })) =
      some (true, false) := by decide
-- R168, V108
theorem test_dispatch :
    after (fun t => (t.edge.pendMem, t.sequencer, t.book.hist))
      (exec .dispatch { State.reset with edge := { State.reset.edge with pendMem := true } }) =
      some (false, .mem .m0, [.enter .mem]) := by decide
theorem test_dispatch_none : after (fun t => t) (exec .dispatch State.reset) = some State.reset := by
  decide
theorem test_iret :
    after (fun t => (t.sequencer, t.book.hist)) (exec .iret { State.reset with sequencer := .io .io4 }) =
      some (.idle, [.exit .io]) := by decide

/-! ### The handlers -/

/-- An I/O cycle held on the bus, its edge latched. -/
def ioCycle (a : Addr) (v : Byte) (iorq : Level) : State :=
  { withEnv { State.reset.env with iorqN := iorq, a := a, dcpu := v, dcpuDrv := true } with
    edge := { State.reset.edge with pendIo := true, prevIorq := iorq } }

/-- A memory cycle held on the bus, its edge latched, one bank byte written. -/
def memCycle (a : Addr) (mreq rd : Level) : State :=
  { withEnv { State.reset.env with mreqN := mreq, rdN := rd, a := a } with
    edge := { State.reset.edge with pendMem := true, prevMreq := mreq }
    store := { State.reset.store with bank := [(0x1234, 0x99)] } }

-- P1: the label after entry, and the direction test
theorem test_iocyc_entry :
    after (fun t => (t.sequencer, t.regs.kind)) (exec .iocyc (ioCycle 0x1234 0x99 .low)) =
      some (.io .io0, .ioCycle) := by decide
theorem test_iocyc_test :
    after (fun t => t.sequencer)
      (exec .iocyc { ioCycle 0x1234 0x99 .high with sequencer := .io .io3 }) = some (.io .io4) := by decide
-- R111
theorem test_memcyc_continue :
    after (fun t => (t.sequencer, t.regs.kind))
      (exec .memcyc { memCycle 0x1234 .low .low with sequencer := .mem .m2 }) =
      some (.mem .m3a, .memRead) := by decide
theorem test_memcyc_abort :
    after (fun t => (t.sequencer, t.regs.kind))
      (exec .memcyc { memCycle 0x1234 .low .high with sequencer := .mem .m2 }) =
      some (.idle, .memUnserviced) := by decide
-- V16, V18
theorem test_iowrMem :
    after (fun t => (t.store.bank, t.sequencer, arbiterAtRest t.arb))
      (exec (.iowrMem false false) (ioCycle 0x1234 0x99 .low)) =
      some ([(0x1234, 0x99)], .idle, true) := by decide
theorem test_iowrMem_alias :
    after (fun t => t.store.bank) (exec (.iowrMem false false) (ioCycle 0x8040 0x41 .low)) =
      some [(0x0040, 0x41)] := by decide
-- V17
theorem test_iowrCon :
    after (fun t => (t.store.bank, t.book.hist.contains (.console 0x41)))
      (exec (.iowrCon false false) (ioCycle 0x0040 0x41 .low)) = some ([], true) := by decide
-- V21
theorem test_ioNowr :
    after (fun t => (t.store.bank, t.book.hist.contains .noWrite, t.sequencer))
      (exec (.ioNowr false false false) (ioCycle 0x1234 0x99 .high)) = some ([], true, .idle) := by decide
-- V25, V26
theorem test_memrd :
    after (fun t => (t.regs.data, t.book.hist.contains (.drive 0x1234 0x99), arbiterAtRest t.arb))
      (exec (.memrd false false) (memCycle 0x1234 .low .low)) = some (0x99, true, true) := by decide
theorem test_memrd_alias :
    after (fun t => t.book.hist.contains (.drive 0x9234 0x99))
      (exec (.memrd false false) (memCycle 0x9234 .low .low)) = some true := by decide
-- V28, V29
theorem test_memAbortRdInactive :
    after (fun t => (t.regs.addrLo, t.regs.ea, t.book.hist.contains (.abort 0x34)))
      (exec (.memAbortRdInactive false false) (memCycle 0x1234 .low .high)) =
      some (0x34, 0, true) := by decide
theorem test_memAbortMreqInactive :
    after (fun t => (t.regs.addrLo, t.regs.kind))
      (exec (.memAbortMreqInactive true false false) (memCycle 0x1234 .high .high)) =
      some (0x34, .memUnserviced) := by decide

/-! ### Bank store and remapper -/

-- V33 to V37
theorem test_addressDecode :
    addressDecode 0x34 0x12 = (0x1234, false, 0x1234) ∧ addressDecode 0x40 0x00 = (0x0040, true, 0x0040) ∧
      addressDecode 0x40 0x80 = (0x8040, false, 0x0040) ∧
      addressDecode 0xFF 0xFF = (0xFFFF, false, 0x7FFF) ∧ addressDecode 0 0x80 = (0x8000, false, 0) := by
  decide
theorem test_bankRead :
    after (fun t => t.host.ret) (exec (.bankRead 0 0x9234) (memCycle 0 .high .high)) =
      some (.byte 0x99) := by decide
-- V39, V46
theorem test_bankWrite :
    after (fun t => (t.store.bank, t.book.hist)) (exec (.bankWrite 2 0x8010 0xCD) State.reset) =
      some ([(65552, 0xCD)], [.bankWrite 2 0x0010 0xCD]) := by decide
theorem test_read :
    after (fun t => t.host.ret) (exec (.read 0 0x1234) (memCycle 0 .high .high)) = some (.byte 0x99) := by
  decide
theorem test_read_refused : refusal (exec (.read 8 0) State.reset) = some .bankOutOfRange := by decide
theorem test_write :
    after (fun t => bankByte t 2 0x0010) (exec (.write 2 0x0010 0xAB) State.reset) = some 0xAB := by decide
theorem test_clear_first :
    after (fun t => (bankByte t 3 0, t.host.activity)) (exec (.clear 3) State.reset) =
      some (0, .clearing 3 1) := by decide
theorem test_clear_last :
    after (fun t => (t.store.name[3], t.host.activity))
      (exec (.clear 3) (setActivity (.clearing 3 32768) (setName 3 (.text [1]) State.reset))) =
      some (.empty, .between) := by decide
theorem test_curbank :
    after (fun t => t.host.ret) (exec .curbank State.reset) = some (.bank 0) := by decide
-- V44, V45
theorem test_setbank :
    after (fun t => t.store.curBank) (exec (.setbank 9) State.reset) = some 1 ∧
      after (fun t => t.store.curBank) (exec (.setbank 255) State.reset) = some 7 := by decide
theorem test_setbank_refused : refusal (exec (.setbank (-1)) State.reset) = some .negativeBank := by
  decide
-- L2.5
theorem test_remap :
    (remapAddr 1, remapAddr 32, remapAddr 64, remapAddr 31, remapAddr 0x1234, remapAddr 1023) =
      (64, 32, 1, 1984, 0x1528, 2031) := by decide
theorem test_remapRot6 :
    (remapWith remapRot6 32, remapWith remapRot6 63, remapWith remapRot6 1365) =
      (1, 1985, 1386) := by decide

/-! ### Codec -/

/-- The part of the decoder a test looks at. -/
def decoded (t : State) : List (Nat × Byte) × Nat × DecodeStatus :=
  (t.store.scratch, t.host.dec.cursor, t.host.dec.status)

/-- A whole stream read from reset: the beginning and one step a character. -/
def readAll (stream : List Byte) : Result :=
  repeatExec (.hexDecode stream) (stream.length + 1) State.reset

-- V50: `3E 01` LF, and the step at the end of the stream
theorem test_hexDecode_bytes :
    after decoded (readAll [0x33, 0x45, 0x20, 0x30, 0x31, 0x0A]) =
      some ([(0, 0x3E), (1, 0x01)], 2, .running) := by decide
theorem test_hexDecode_end :
    after (fun t => (t.host.ret, t.host.activity))
      (exec (.hexDecode []) (setActivity (.decoding []) State.reset)) =
      some (.success, .between) := by decide
-- V79: `1 2`
theorem test_hexDecode_split : refusal (readAll [0x31, 0x20, 0x32]) = some .splitUnit := by decide
-- V58: `:1900` LF `3E`, V63: `:97FF7E7F`, V68: `:18G0`, V70: LF LF LF `!`, V75: `:#x` LF `08`
theorem test_decode_origin :
    after decoded (readAll [0x3A, 0x31, 0x39, 0x30, 0x30, 0x0A, 0x33, 0x45]) =
      some ([(0x0100, 0x3E)], 257, .running) := by decide
theorem test_decode_past :
    after (fun t => (t.host.dec.cursor, t.host.dec.status, t.host.dec.written, t.host.activity))
      (readAll [0x3A, 0x39, 0x37, 0x46, 0x46, 0x37, 0x45, 0x37, 0x46]) =
      some (32768, .failed 1, [0x7FFF], .between) := by decide
theorem test_decode_badInOrigin :
    after (fun t => (t.host.dec.cursor, t.host.dec.status))
      (repeatExec (.hexDecode [0x3A, 0x31, 0x38, 0x47, 0x30]) 5 State.reset) =
      some (0, .failed 1) := by decide
theorem test_decode_line :
    after (fun t => (t.host.dec.status, t.host.ret)) (readAll [0x0A, 0x0A, 0x0A, 0x21]) =
      some (.failed 4, .decodeError 4) := by decide
theorem test_decode_hashInOrigin :
    after decoded (readAll [0x3A, 0x23, 0x78, 0x0A, 0x30, 0x38]) =
      some ([(0, 0x08)], 1, .running) := by decide

/-- Reset with the decoder as given. -/
def withDec (d : Decoder) : State := setDec d State.reset

theorem test_chLtLf :
    after (fun t => (t.host.dec.pstate, t.host.dec.line))
      (exec .chLtLf (withDec { Decoder.initial with pstate := .inComment })) = some (.normal, 2) := by decide
theorem test_chLtCr :
    after (fun t => (t.host.dec.pstate, t.host.dec.line))
      (exec .chLtCr (withDec { Decoder.initial with pstate := .inOrigin })) = some (.normal, 1) := by decide
theorem test_chHash :
    after (fun t => t.host.dec.pstate) (exec .chHash State.reset) = some .inComment := by decide
theorem test_chOrgAt :
    after (fun t => t.host.dec.pstate) (exec .chOrgAt State.reset) = some .inOrigin := by decide
theorem test_chOrgColon_restart :
    after (fun t => (t.host.dec.pstate, t.host.dec.ocnt))
      (exec .chOrgColon (withDec { Decoder.initial with pstate := .inOrigin })) =
      some (.inOrigin, 0) := by decide
theorem test_chSepSpace :
    after (fun t => t.host.dec) (exec .chSepSpace State.reset) = some Decoder.initial := by decide
theorem test_chSepTab :
    refusal (exec .chSepTab (withDec { Decoder.initial with nib := some 1 })) = some .splitUnit := by
  decide
theorem test_chHexNormalDigit :
    after (fun t => t.host.dec.nib) (exec (.chHexNormalDigit 9) State.reset) = some (some 9) := by decide
theorem test_chHexNormalUpper :
    after (fun t => t.store.scratch)
      (exec (.chHexNormalUpper 5) (withDec { Decoder.initial with nib := some 3 })) =
      some [(0, 0x3E)] := by decide
theorem test_chHexNormalLower :
    after (fun t => t.host.dec.nib) (exec (.chHexNormalLower 6) State.reset) = some (some 15) := by decide
theorem test_chHexOriginDigit :
    after (fun t => (t.host.dec.cursor, t.host.dec.pstate))
      (exec (.chHexOriginDigit 0)
        (withDec { Decoder.initial with pstate := .inOrigin, oacc := 0x190, ocnt := 3 })) =
      some (0x0100, .normal) := by decide
theorem test_chHexOriginUpper :
    after (fun t => (t.host.dec.cursor, t.host.dec.status))
      (exec (.chHexOriginUpper 6)
        (withDec { Decoder.initial with pstate := .inOrigin, oacc := 0x97F, ocnt := 3 })) =
      some (32767, .running) := by decide
theorem test_chHexOriginLower :
    after (fun t => t.host.dec.status)
      (exec (.chHexOriginLower 6)
        (withDec { Decoder.initial with pstate := .inOrigin, oacc := 0x17F, ocnt := 3 })) =
      some (.failed 1) := by decide
theorem test_chBadNormal :
    after (fun t => (t.host.dec.status, t.book.hist))
      (exec (.chBadNormal 0x47) (withDec { Decoder.initial with line := 2 })) =
      some (.failed 2, [.decodeError 2]) := by decide
theorem test_chBadOrigin :
    after (fun t => t.host.ret)
      (exec (.chBadOrigin 0x47) (withDec { Decoder.initial with pstate := .inOrigin })) =
      some (.decodeError 1) := by decide
theorem test_chAnyComment :
    after (fun t => t.host.dec)
      (exec (.chAnyComment 0x40) (withDec { Decoder.initial with pstate := .inComment })) =
      some { Decoder.initial with pstate := .inComment } := by decide
-- V85, V86: the text `00 0A FF`, and the line break before byte 16
theorem test_encodeText :
    encodeText [0x00, 0x0A, 0xFF] = [0x30, 0x30, 0x20, 0x30, 0x41, 0x20, 0x46, 0x46] := by decide
theorem test_sepBefore : (sepBefore 0, sepBefore 15, sepBefore 16) = ([], [0x20], [0x0A]) := by decide

/-! ### Save, load, pause -/

-- V88: file position 1 takes bank byte 64
theorem test_save :
    after (fun t => scratchByte t 1)
      (exec .save
        { State.reset with store := { State.reset.store with bank := [(64, 0xAA)] },
                           host := { State.reset.host with activity := .saving 0 1 } }) =
      some 0xAA := by decide
theorem test_save_encodes :
    after (fun t => t.host.activity)
      (exec .save
        { State.reset with store := { State.reset.store with scratch := [(16, 0x0A)] },
                           host := { State.reset.host with activity := .encoding 16 [0x46] } }) =
      some (.encoding 17 [0x46, 0x0A, 0x30, 0x41]) := by decide
-- V94, V93
theorem test_load_decodes :
    after (fun t => (t.host.activity, t.host.dec.written))
      (repeatExec (.load [0x33, 0x45]) 4 State.reset) = some (.loading 0 0, [0]) := by decide
theorem test_load_error :
    after (fun t => (t.host.activity, t.host.ret)) (repeatExec (.load [0x0A, 0x21, 0x33]) 3 State.reset) =
      some (.between, .decodeError 2) := by decide
theorem test_load_copy :
    after (fun t => (bankByte t 0 5, t.host.activity))
      (exec (.load [])
        { State.reset with store := { State.reset.store with scratch := [(5, 0x3E)] },
                           host := { State.reset.host with activity := .loading 0 5,
                                                           dec := { Decoder.initial with written := [5] } } }) =
      some (0x3E, .loading 0 6) := by decide
-- V95, V96, V97, V99
theorem test_preq : after (fun t => t.pause) (exec .preq State.reset) = some ⟨true, false⟩ := by decide
theorem test_preq_refused :
    refusal (exec .preq { State.reset with pause := ⟨true, false⟩ }) = some .requestOutstanding := by decide
theorem test_pwait_waits :
    after (fun t => t.host.activity) (exec .pwait State.reset) = some .waitingAck := by decide
theorem test_pwait_passes :
    after (fun t => t.host.activity)
      (exec .pwait { setActivity .waitingAck State.reset with pause := ⟨true, true⟩ }) =
      some .between := by decide
theorem test_prel :
    after (fun t => t.pause) (exec .prel { State.reset with pause := ⟨true, true⟩ }) =
      some ⟨false, true⟩ := by decide
theorem test_ipoll :
    after (fun t => t.idle) (exec .ipoll { State.reset with pause := ⟨true, false⟩ }) = some .iack := by
  decide
theorem test_iack :
    after (fun t => (t.pause.ack, t.idle)) (exec .iack { State.reset with idle := .iack }) =
      some (true, .ispin) := by decide
theorem test_iack_preempted :
    after (fun t => t.pause.ack)
      (exec .iack { State.reset with idle := .iack, sequencer := .io .io0 }) = some false := by decide
theorem test_ispin :
    after (fun t => t.idle) (exec .ispin { State.reset with idle := .ispin, pause := ⟨true, true⟩ }) =
      some .ispin := by decide
theorem test_iresume :
    after (fun t => (t.pause, t.idle))
      (exec .iresume { State.reset with idle := .iresume, pause := ⟨true, true⟩ }) =
      some (⟨true, false⟩, .ipoll) := by decide

/-! ### The step -/

theorem test_step_fetch :
    after (fun t => (t.arb.mux, t.book.script)) (step (State.withFetchWord State.reset 8 0x36)) =
      some (.lowAddrIn, []) := by decide
theorem test_step_idle :
    after (fun t => t.idle) (step { State.reset with pause := ⟨true, false⟩ }) = some .iack := by decide

/-! ### States that meet the hypotheses of the statements

One theorem for each statement with hypotheses, one conjunct for each clause, at the edges of its
range. -/

/-- A state with a turn to come. -/
def turn (t : Turn) (s : State) : State := setScript [t] s

/-- Reset with the sequencer at a label. -/
def seqAt (q : Sequencer) : State := { State.reset with sequencer := q }

/-- Reset with latches set. -/
def latched (io mem : Bool) : State :=
  { State.reset with edge := { State.reset.edge with pendIo := io, pendMem := mem } }

/-- Reset with the UI somewhere. -/
def uiAt (u : UiActivity) : State := setActivity u State.reset

/-- Reset with the idle loop somewhere and the flags as given. -/
def idleAt (l : IdleLabel) (p : PauseFlags) : State := { State.reset with idle := l, pause := p }

theorem test_witness_OnlyFiveControlWordsAreLegal :
    (∃ c d : Fin 3, c ≠ d ∧ (ctlSel 0x3C).getLsbD c = false ∧ (ctlSel 0x3C).getLsbD d = false) ∧
      (∃ c : Fin 3, (ctlSel 0x37).getLsbD c = true ∧ (ctlDir 0x37).getLsbD c = false) ∧
      (∀ m, ctlEncode m ≠ 0x00) ∧
      (turn (.line [0x01, 0x00]) State.reset).book.script = [.line [0x01, (0x00 : BitVec 6).setWidth 8]] := by
  refine ⟨by decide, by decide, ?_, by decide⟩
  intro m; cases m <;> decide
theorem test_witness_CycRowsPartitionAllWords :
    (0b00011#5 &&& 0b11100 = 0b00000) ∧ (0b00111#5 &&& 0b11100 = 0b00100) ∧
      (0b01111#5 &&& 0b11000 = 0b01000) ∧ (0b11100#5 &&& 0b10011 = 0b10000) ∧
      (0b11101#5 &&& 0b10011 = 0b10001) ∧ (0b11111#5 &&& 0b10010 = 0b10010) := by decide
theorem test_witness_CharactersSelectTheirRows :
    (0x30#8).toNat = 0x30 ∧ (0x39#8).toNat = 0x39 ∧ (0x41#8).toNat = 0x41 ∧ (0x46#8).toNat = 0x46 ∧
      (0x61#8).toNat = 0x61 ∧ (0x66#8).toNat = 0x66 ∧
      (0x2F#8 ∉ [0x0A#8, 0x0D#8, 0x23#8, 0x40#8, 0x3A#8, 0x20#8, 0x09#8] ∧
        ¬(0x30 ≤ (0x2F#8).toNat ∧ (0x2F#8).toNat ≤ 0x39) ∧
        ¬(0x41 ≤ (0x2F#8).toNat ∧ (0x2F#8).toNat ≤ 0x46) ∧
        ¬(0x61 ≤ (0x2F#8).toNat ∧ (0x2F#8).toNat ≤ 0x66)) := by decide
theorem test_witness_DecodeOfEncodeIsIdentity :
    wellFormed (.chHexNormalDigit 9) = true ∧ readIn .normal (.chHexNormalDigit 9) = true ∧
      wellFormed (.setbank (-1)) = true ∧ readIn .inOrigin (.setbank (-1)) = true := by decide
theorem test_witness_EncodeOfDecodeIsIdentity :
    decode .inOrigin [0x04, 0x67] = .ok (.chBadOrigin 0x67) := by decide
theorem test_witness_StepPerformsTheDecodedLine :
    ((turn (.line [0x40]) State.reset).book.script = [.line [0x40]] ∧
      decode (turn (.line [0x40]) State.reset).host.dec.pstate [0x40] = .ok .preq) ∧
      tableLine 8 0x36 = some [0x01, 0x36] ∧
      decode State.reset.host.dec.pstate [0x01, 0x36] = .ok .selpLowAddrIn := by decide
theorem test_witness_AgentsFollowTheirControlState :
    (turn (.agent .irq) (seqAt (.io .io0))).book.script = [.agent .irq] ∧
      (seqAt (.mem .m5d)).sequencer = .mem .m5d ∧
      ((latched false true).sequencer = .idle ∧ (latched false true).edge.pendMem = true) ∧
      (State.reset.edge.pendIo = false ∧ State.reset.edge.pendMem = false) ∧
      (turn (.agent .busIdle) (seqAt (.io .io0))).sequencer ≠ .idle ∧
      (idleAt .iack ⟨true, false⟩).idle = .iack ∧ (idleAt .ispin ⟨true, true⟩).idle = .ispin ∧
      (idleAt .iresume ⟨false, true⟩).idle = .iresume ∧
      (uiAt .waitingAck).host.activity = .waitingAck ∧
      (turn (.agent .ui) (uiAt (.clearing 7 32768))).host.activity = .clearing 7 32768 ∧
      (uiAt (.decoding [])).host.activity = .decoding [] ∧
      (uiAt (.reading [0x33] 1)).host.activity = .reading [0x33] 1 ∧
      (uiAt (.loading 0 0)).host.activity = .loading 0 0 ∧
      (uiAt (.saving 0 32767)).host.activity = .saving 0 32767 ∧
      (uiAt (.encoding 32768 [])).host.activity = .encoding 32768 [] ∧
      State.reset.book.script = [] ∧
      (let s := uiAt .waitingAck
       s.host.activity = .waitingAck ∧ s.pause.ack = false) ∧
      (let s : State := { uiAt .waitingAck with pause := ⟨true, true⟩ }
       ¬(s.host.activity = .between ∨ (s.host.activity = .waitingAck ∧ s.pause.ack = false))) := by
  decide
theorem test_witness_EnvironmentTurnLatchesFallingEdges :
    (turn (.env { iorqN := some .low, dcpuDrv := some true }) State.reset).book.script =
      [.env { iorqN := some .low, dcpuDrv := some true }] := by decide
theorem test_witness_CpuSamplesTheResolvedBus :
    let drv (a : MuxArbiter) (d : Bool) : State :=
      turn .cpuSample { State.reset with arb := a, env := { State.reset.env with dcpuDrv := d } }
    (drv (driving 1) false).book.script = [.cpuSample] ∧
      ((drv (driving 1) false).arb.mux = .dataOut ∧ (drv (driving 1) false).arb.shMode = .output ∧
        (drv (driving 1) false).env.dcpuDrv = false) ∧
      (¬((drv (phase .dataOut) true).arb.mux = .dataOut ∧
          (drv (phase .dataOut) true).arb.shMode = .output) ∧
        (drv (phase .dataOut) true).env.dcpuDrv = true) ∧
      (¬((drv (phase .neutral) false).arb.mux = .dataOut ∧
          (drv (phase .neutral) false).arb.shMode = .output) ∧
        (drv (phase .neutral) false).env.dcpuDrv = false) ∧
      ((drv (driving 1) true).arb.mux = .dataOut ∧ (drv (driving 1) true).env.dcpuDrv = true) := by
  decide
theorem test_witness_ShoutDrivesTheSharedLines : (seqAt (.mem .m5a)).sequencer = .mem .m5a := rfl
theorem test_witness_DrivesAndContentionsAreRecorded :
    (seqAt (.mem .m5a)).sequencer = .mem .m5a ∧ completes (exec .memcyc (seqAt (.mem .m5a))) = true ∧
      completes (exec .selpDataOut State.reset) = true ∧
      completes (exec (.shout 1) (at_ .idle (phase .dataOut))) = true := by decide
theorem test_witness_SampTakesTheSharedLines :
    ((driving 7).settled = true ∧ (driving 7).shMode = .output ∧ (driving 7).mux = .dataOut ∧
        7 = (driving 7).shOut) ∧
      (let a : MuxArbiter := { driving 7 with mux := .lowAddrIn }
       a.settled = true ∧ a.shMode = .output ∧ a.mux ≠ .dataOut) ∧
      ((phase .lowAddrIn).settled = true ∧ (phase .lowAddrIn).shMode = .input ∧
        (phase .lowAddrIn).mux = .lowAddrIn) ∧
      ((phase .highAddrIn).settled = true ∧ (phase .highAddrIn).mux = .highAddrIn) ∧
      ((phase .dataIn).settled = true ∧ (phase .dataIn).mux = .dataIn ∧
        (ioCycle 0 5 .low).env.dcpuDrv = true ∧ (5 : Byte) = (ioCycle 0 5 .low).env.dcpu) ∧
      ((phase .dataIn).mux = .dataIn ∧ State.reset.env.dcpuDrv = false) ∧
      ((phase .neutral).settled = true ∧ (phase .dataOut).settled = true ∧
        (phase .dataOut).shMode = .input) ∧
      State.reset.arb.settled = false := by decide
theorem test_witness_MicroOperationFrame :
    completes (exec .selpDataIn State.reset) = true ∧ completes (exec .neut State.reset) = true ∧
      completes (exec (.settle .memData) State.reset) = true ∧
      completes (exec (.shout 0) State.reset) = true ∧ completes (exec .shin State.reset) = true ∧
      completes (exec (.samp .data) (at_ .idle (phase .lowAddrIn))) = true ∧
      completes (exec (.tst ⟨true, true, true, true⟩) State.reset) = true := by decide
theorem test_witness_EdgeOperationsLatchFalls :
    (turn (.line [0x02, 0b00]) State.reset).book.script = [.line [0x02, 0b00]] ∧
      completes (exec .edgeMem State.reset) = true ∧
      completes (exec (.edgeIo false) State.reset) = true := by decide
theorem test_witness_DispatchEntersAPendingHandler :
    ((latched true false).sequencer = .idle ∧ (latched true false).edge.pendIo = true ∧
        (latched true false).edge.pendMem = false) ∧
      ((latched false true).edge.pendIo = false ∧ (latched false true).edge.pendMem = true) ∧
      ((latched true true).edge.pendIo = true ∧ (latched true true).edge.pendMem = true) := by decide
theorem test_witness_TurnsThatCannotActPass :
    (seqAt (.io .io4)).sequencer ≠ .idle ∧ (seqAt (.mem .m0)).sequencer = .mem .m0 ∧
      (State.reset.sequencer = .idle ∧ State.reset.edge.pendIo = false ∧
        State.reset.edge.pendMem = false) ∧
      State.reset.idle ≠ .iack ∧ (idleAt .iack ⟨true, false⟩).idle ≠ .ipoll ∧
      (ioCycle 0x0040 0 .high).env.iorqN = .high ∧
      ((ioCycle 0x0040 0 .low).env.iorqN = .low ∧ (ioCycle 0x0040 0 .low).env.a = 0x0040) ∧
      (ioCycle 0x0041 0 .low).env.a ≠ 0x0040 ∧ (memCycle 0 .high .low).env.mreqN = .high ∧
      ((memCycle 0 .low .high).env.mreqN = .low ∧ (memCycle 0 .low .high).env.rdN = .high) ∧
      (memCycle 0 .low .low).env.rdN = .low ∧
      (uiAt (.saving 0 0)).host.activity ≠ .between ∧
      ((uiAt (.saving 0 0)).host.activity ≠ .waitingAck ∧
        (∀ i, (uiAt (.saving 0 0)).host.activity ≠ .clearing ((7#8).setWidth 3) i) ∧
        (∀ cs, (uiAt (.saving 0 0)).host.activity ≠ .decoding cs) ∧
        (∀ cs k, (uiAt (.saving 0 0)).host.activity ≠ .reading cs k) ∧
        ∀ x i, (uiAt (.saving 0 0)).host.activity ≠ .loading x i) ∧
      ((∀ x i, (uiAt (.loading 7 32768)).host.activity ≠ .saving x i) ∧
        ∀ i cs, (uiAt (.loading 7 32768)).host.activity ≠ .encoding i cs) ∧
      ((uiAt (.clearing 0 0)).host.activity ≠ .between ∧ 7 < (8#8).toNat) ∧
      (withDec { Decoder.initial with status := .failed 1 }).host.dec.status ≠ .running ∧
      State.reset.host.dec.pstate ≠ .inComment ∧
      (withDec { Decoder.initial with pstate := .inComment }).host.dec.pstate ≠ .normal ∧
      State.reset.host.dec.pstate ≠ .inOrigin := by simp [seqAt, idleAt, uiAt, withDec, ioCycle, memCycle, withEnv, State.reset, Decoder.initial, Config.resetCurBank]
theorem test_witness_ReturnAtFixedExitsLeavesLinesNeutral :
    let io := at_ (.io .io4) (phase .highAddrIn)
    let mem : State := at_ (.mem .m2) { phase .neutral with shMode := .input }
    let out : State := at_ (.mem .m5d) { driving 1 with mux := .neutral }
    arbiterFits io.sequencer io.arb = true ∧
      after (fun t => t.sequencer) (exec .iocyc io) = some .idle ∧
      arbiterFits mem.sequencer mem.arb = true ∧
      after (fun t => t.sequencer) (exec .memcyc mem) = some .idle ∧
      arbiterFits out.sequencer out.arb = true ∧
      after (fun t => t.sequencer) (exec .memcyc out) = some .idle := by decide
theorem test_witness_InterruptOperationFrame :
    completes (exec (.edgeIo true) State.reset) = true ∧ completes (exec .edgeMem State.reset) = true ∧
      completes (exec .dispatch (latched true false)) = true ∧
      completes (exec .iret (seqAt (.mem .m2))) = true := by decide
theorem test_witness_HandlersEnterAtTheirFirstLabel :
    ((latched true true).sequencer = .idle ∧ (latched true true).edge.pendIo = true ∧
        (latched true true).edge.pendMem = true) ∧
      (seqAt (.io .io0)).sequencer = .io .io0 ∧ (seqAt (.mem .m0)).sequencer = .mem .m0 := by decide
theorem test_witness_IoHandlerSamplesTheAddress :
    (seqAt (.io .io1a)).sequencer = .io .io1a ∧ (seqAt (.io .io1b)).sequencer = .io .io1b ∧
      (seqAt (.io .io1c)).sequencer = .io .io1c ∧ (seqAt (.io .io2a)).sequencer = .io .io2a ∧
      (seqAt (.io .io2b)).sequencer = .io .io2b ∧
      ((at_ (.io .io1d) (phase .lowAddrIn)).sequencer = .io .io1d ∧
        (at_ (.io .io1d) (phase .lowAddrIn)).arb = phase .lowAddrIn) ∧
      ((at_ (.io .io2c) (phase .highAddrIn)).sequencer = .io .io2c ∧
        (at_ (.io .io2c) (phase .highAddrIn)).arb = phase .highAddrIn) ∧
      completes (exec (.samp .addrLo) (at_ (.io .io1d) (phase .dataIn))) = true ∧
      completes (exec (.samp .addrHi) (at_ (.io .io2c) (phase .dataIn))) = true := by decide
theorem test_witness_IoHandlerTestsDirectionAndSamplesData :
    let s (l : IoLabel) (w : Level) : State := { ioCycle 0x1234 0x99 w with sequencer := .io l }
    ((s .io3 .low).sequencer = .io .io3 ∧ (s .io3 .low).env.iorqN = .low) ∧
      ((s .io3 .high).env.iorqN = .high) ∧ (s .io3a1 .low).sequencer = .io .io3a1 ∧
      (s .io3a2 .low).sequencer = .io .io3a2 ∧
      (let t : State := { s .io3a3 .low with arb := phase .dataIn }
       t.sequencer = .io .io3a3 ∧ t.arb.mux = .dataIn ∧ t.arb.shMode = .input ∧
         t.arb.settled = true ∧ t.env.dcpuDrv = true) ∧
      (at_ (.io .io3a3) (phase .dataIn)).env.dcpuDrv = false ∧
      completes (exec (.samp .data) (s .io3a3 .low)) = true := by decide
theorem test_witness_IoHandlerWritesConsoleOrBankThenExits :
    let s (e : Addr) : State := { seqAt (.io .io3bc) with regs := { State.reset.regs with ea := e } }
    ((s 0x0040).sequencer = .io .io3bc ∧ (s 0x0040).regs.ea = 0x0040) ∧
      (s 0x8040).regs.ea ≠ 0x0040 ∧ (s 0xFFFF).regs.ea ≠ 0x0040 ∧
      (seqAt (.io .io4)).sequencer = .io .io4 := by decide
theorem test_witness_MemoryHandlerSamplesTheAddress :
    (seqAt (.mem .m1a)).sequencer = .mem .m1a ∧ (seqAt (.mem .m1b)).sequencer = .mem .m1b ∧
      (seqAt (.mem .m1d)).sequencer = .mem .m1d ∧ (seqAt (.mem .m1e)).sequencer = .mem .m1e ∧
      (seqAt (.mem .m3a)).sequencer = .mem .m3a ∧ (seqAt (.mem .m3b)).sequencer = .mem .m3b ∧
      (seqAt (.mem .m3d)).sequencer = .mem .m3d ∧
      ((at_ (.mem .m1c) (phase .lowAddrIn)).sequencer = .mem .m1c ∧
        (at_ (.mem .m1c) (phase .lowAddrIn)).arb = phase .lowAddrIn) ∧
      ((at_ (.mem .m3c) (phase .highAddrIn)).sequencer = .mem .m3c ∧
        (at_ (.mem .m3c) (phase .highAddrIn)).arb = phase .highAddrIn) ∧
      completes (exec (.samp .addrLo) (at_ (.mem .m1c) (phase .neutral))) = true ∧
      completes (exec (.samp .addrHi) (at_ (.mem .m3c) (phase .neutral))) = true := by decide
theorem test_witness_MemoryHandlerAbortsWhenALineIsInactive :
    let s (m r : Level) : State := { memCycle 0x1234 m r with sequencer := .mem .m2 }
    ((s .high .low).sequencer = .mem .m2 ∧ (s .high .low).env.mreqN = .high) ∧
      (s .low .high).env.rdN = .high ∧
      ((s .low .low).env.mreqN = .low ∧ (s .low .low).env.rdN = .low) := by decide
theorem test_witness_MemoryHandlerReadsAndDrives :
    ((seqAt (.mem .m4)).sequencer = .mem .m4 ∧
        (0x99 : Byte) = bankByte { memCycle 0 .low .low with sequencer := .mem .m4 } 0 0x1234) ∧
      ((seqAt (.mem .m5a)).sequencer = .mem .m5a ∧ (seqAt (.mem .m5a)).env.dcpuDrv = false) ∧
      (seqAt (.mem .m5b)).sequencer = .mem .m5b ∧ (seqAt (.mem .m5c)).sequencer = .mem .m5c ∧
      (seqAt (.mem .m5d)).sequencer = .mem .m5d := by decide
theorem test_witness_IoRunOutcomes :
    let s := ioCycle 0xFFFF 0x99 .low
    let u : State := { s with env := { s.env with dcpuDrv := false } }
    (s.sequencer = .idle ∧ s.edge.pendIo = true ∧ s.env.dcpuDrv = true ∧ (0x99 : Byte) = s.env.dcpu) ∧
      (u.sequencer = .idle ∧ u.edge.pendIo = true ∧ u.env.dcpuDrv = false) ∧
      (s.env.iorqN = .low ∧ s.env.a ≠ 0x0040) ∧ (ioCycle 0x0040 0x99 .low).env.a = 0x0040 ∧
      (ioCycle 0x0040 0x99 .high).env.iorqN = .high := by decide
theorem test_witness_MemoryRunOutcomes :
    let s := memCycle 0x9234
    ((s .low .low).sequencer = .idle ∧ (s .low .low).edge.pendMem = true ∧
        (s .low .low).arb.shMode = .input) ∧
      ((s .low .low).env.mreqN = .low ∧ (s .low .low).env.rdN = .low) ∧
      ((s .low .high).env.mreqN = .low ∧ (s .low .high).env.rdN = .high) ∧
      (s .high .low).env.mreqN = .high := by decide
theorem test_witness_HandlersRunToCompletionWithoutNesting :
    (seqAt (.io .io0)).sequencer = .io .io0 ∧ (seqAt (.mem .m0)).sequencer = .mem .m0 ∧
      (seqAt (.io .io3)).sequencer ≠ .idle ∧ completes (exec .dispatch (seqAt (.io .io3))) = true := by
  decide
theorem test_witness_PauseDoesNotGateTheHandlers :
    completes (exec .dispatch (latched true false)) = true ∧
      completes (exec .iocyc (seqAt (.io .io3bc))) = true ∧
      completes (exec (.memrd true true) (memCycle 0 .low .low)) = true ∧
      completes (exec (.ioNowr true true true) (ioCycle 0 0 .high)) = true := by decide
theorem test_witness_HandlerFrame :
    (completes (exec .iocyc (seqAt (.io .io3bc))) = true ∧
        (seqAt (.io .io3bc)).sequencer = .io .io3bc) ∧
      (completes (exec .iocyc (seqAt (.io .io4))) = true ∧
        (seqAt (.io .io4)).sequencer ≠ .io .io3bc) ∧
      completes (exec (.iowrMem false false) (ioCycle 0x1234 0x99 .low)) = true ∧
      completes (exec .memcyc (seqAt (.mem .m4))) = true := by decide
theorem test_witness_HostReadsAndWritesNamedBanks :
    State.reset.host.activity = .between ∧ (7#8).toNat ≤ 7 ∧ 7 < (8#8).toNat := by decide
theorem test_witness_CurrentBankIsSetModuloEight :
    State.reset.host.activity = .between ∧ (-1 : Int) < 0 := by decide
theorem test_witness_BulkOperationsMoveOneByteAStep :
    State.reset.host.activity = .between ∧ (7#8).toNat ≤ 7 ∧
      ((uiAt (.clearing 7 32767)).host.activity = .clearing 7 32767 ∧ 32767 < 32768) ∧
      ((uiAt (.clearing 7 32768)).host.activity = .clearing 7 32768 ∧ 32768 ≤ 32768) ∧
      (6#8) ≠ (7#3).setWidth 8 ∧ (uiAt (.saving 0 32767)).host.activity = .saving 0 32767 ∧
      ((uiAt (.saving 0 32768)).host.activity = .saving 0 32768 ∧ 32768 ≤ 32768) ∧
      (uiAt (.encoding 32767 [])).host.activity = .encoding 32767 [] ∧
      ((uiAt (.encoding 32768 [])).host.activity = .encoding 32768 [] ∧
        (uiAt (.encoding 32768 [])).host.storage = none) ∧
      (storageStep (some 0) (uiAt (.encoding 32768 []))).host.storage = some 0 ∧
      ((uiAt (.loading 3 32767)).host.activity = .loading 3 32767 ∧
        32767 ∉ (uiAt (.loading 3 32767)).host.dec.written) ∧
      (let s := setActivity (.loading 3 0) (withDec { Decoder.initial with written := [0] })
       s.host.activity = .loading 3 0 ∧ 0 ∈ s.host.dec.written) ∧
      (uiAt (.loading 3 32768)).host.activity = .loading 3 32768 := by decide
theorem test_witness_ClearZeroFillsTheBank :
    State.reset.host.activity = .between ∧ (0#8).toNat ≤ 7 ∧ (7#8).toNat ≤ 7 := by decide
theorem test_witness_ClearZeroFillsTheBank_run :
    let s := turn (.line (encode (.clear 7))) State.reset
    ∃ (n : Nat) (t : State), s.host.activity = .between ∧ (7#8).toNat ≤ 7 ∧
      s.book.script = .line (encode (.clear 7)) :: [] ∧ [].all agentTurn = true ∧
      NoBusActivity n s ∧ runSteps n s = .next t ∧ 0 < n ∧ t.host.activity = .between := by
  obtain ⟨t, ht⟩ := clear_ends 32767
    { uiAt (.clearing 7 1) with
      store := (setBankByte 7 0 0 State.reset).store
      book := { State.reset.book with hist := [.host (.clear 7)] } } 7 1 rfl rfl ⟨rfl, rfl, rfl⟩ rfl
  have h := noBusActivity_of_endsSilently (s := turn (.line (encode (.clear 7))) State.reset)
    (e := .host (.clear 7)) ⟨rfl, rfl, rfl⟩ rfl (fun _ => by simp) rfl ht
  exact ⟨_, t, rfl, by decide, rfl, rfl, h.1, h.2, by omega, ht.2.1⟩
theorem test_witness_RemapPermutesAddressBits :
    State.reset.host.activity = .between ∧ (32767#16).toNat ≤ 32767 ∧ 32767 < (32768#16).toNat := by
  decide
theorem test_witness_ControlCharactersMoveTheParser :
    let comment := withDec { Decoder.initial with pstate := .inComment }
    let pair := withDec { Decoder.initial with nib := some 0 }
    let quad := withDec { Decoder.initial with pstate := .inOrigin, ocnt := 1 }
    let origin := withDec { Decoder.initial with pstate := .inOrigin, ocnt := 0 }
    (State.reset.host.activity = .between ∧ State.reset.host.dec.status = .running) ∧
      (pair.host.dec.nib ≠ none ∧ pair.host.dec.pstate ≠ .inComment) ∧
      (quad.host.dec.pstate = .inOrigin ∧ 0 < quad.host.dec.ocnt ∧ quad.host.dec.status = .running) ∧
      comment.host.dec.pstate = .inComment ∧
      (origin.host.dec.nib = none ∧ ¬(origin.host.dec.pstate = .inOrigin ∧ 0 < origin.host.dec.ocnt) ∧
        origin.host.dec.pstate ≠ .inComment) := by decide
theorem test_witness_DataDigitPairsAreStored :
    let half (c : Nat) := withDec { Decoder.initial with nib := some 15, cursor := c }
    (State.reset.host.activity = .between ∧ State.reset.host.dec.status = .running ∧
        State.reset.host.dec.pstate = .normal ∧ State.reset.host.dec.nib = none) ∧
      ((9#4).toNat ≤ 9 ∧ (1#3).toNat = 1 ∧ (6#3).toNat = 6 ∧ (10#4).toNat = 9 + (1#3).toNat ∧
        (15#4).toNat = 9 + (6#3).toNat) ∧
      ((half 32767).host.dec.nib = some 15 ∧ (half 32767).host.dec.cursor ≤ 32767 ∧
        (half 32767).host.dec.pstate = .normal) ∧
      32767 < (half 32768).host.dec.cursor := by decide
theorem test_witness_OriginDigitsSetTheCursor :
    let org (acc : BitVec 16) (n : Nat) :=
      withDec { Decoder.initial with pstate := .inOrigin, oacc := acc, ocnt := n }
    ((org 0 0).host.activity = .between ∧ (org 0 0).host.dec.status = .running ∧
        (org 0 0).host.dec.pstate = .inOrigin ∧ (org 0 0).host.dec.ocnt ≠ 3 ∧
        (org 0 2).host.dec.ocnt ≠ 3) ∧
      ((org 0x180 3).host.dec.ocnt = 3 ∧
        (0x1800#16).toNat = (16 * (org 0x180 3).host.dec.oacc.toNat + (0#4).toNat) % 65536) ∧
      (0x97FF#16).toNat = (16 * (org 0x97F 3).host.dec.oacc.toNat + (15#4).toNat) % 65536 ∧
      ((0x17FF#16).toNat = (16 * (org 0x17F 3).host.dec.oacc.toNat + (15#4).toNat) % 65536 ∧
        (0x17FF#16).toNat < 0x1800) ∧
      ((0x9800#16).toNat = (16 * (org 0x980 3).host.dec.oacc.toNat + (0#4).toNat) % 65536 ∧
        0x97FF < (0x9800#16).toNat) := by decide
theorem test_witness_InvalidCharactersEndTheDecode :
    (State.reset.host.activity = .between ∧ State.reset.host.dec.status = .running ∧
        State.reset.host.dec.pstate = .normal) ∧
      (withDec { Decoder.initial with pstate := .inComment }).host.dec.pstate = .inComment := by decide
theorem test_witness_DecodePerformsOneRowPerCharacter :
    let at_ (d : Decoder) (cs : List Byte) : State := setActivity (.decoding cs) (withDec d)
    let row (s : State) (c : Byte) : Result :=
      exec (decodeChar s.host.dec.pstate c) { s with host.activity := .between }
    State.reset.host.activity = .between ∧
      ((at_ Decoder.initial [0x33, 0x45]).host.dec.status = .running ∧
        completes (row (at_ Decoder.initial [0x33, 0x45]) 0x33) = true) ∧
      after (fun t => t.host.dec.status) (row (at_ Decoder.initial [0x21]) 0x21) = some (.failed 1) ∧
      refusal (row (at_ { Decoder.initial with nib := some 1 } [0x20]) 0x20) = some .splitUnit ∧
      (at_ Decoder.initial []).host.activity = .decoding [] ∧
      (at_ { Decoder.initial with nib := some 1 } []).host.dec.nib ≠ none ∧
      (at_ { Decoder.initial with pstate := .inOrigin, ocnt := 1 } []).host.dec.pstate = .inOrigin ∧
      ¬(Decoder.initial.nib ≠ none ∨
        (Decoder.initial.pstate = .inOrigin ∧ 0 < Decoder.initial.ocnt)) := by decide
theorem test_witness_DecodeSucceedsOrReportsTheLine :
    State.reset.host.activity = .between ∧
      wholeUnits .normal 0 [0x3A, 0x31, 0x39, 0x30, 0x30, 0x0A, 0x33, 0x45] = true ∧
      wholeUnits .normal 0 [0x0A, 0x0A, 0x21, 0x31] = true := by decide
theorem test_witness_EncodeWritesSixteenBytesALine :
    State.reset.host.activity = .between ∧ (List.replicate 32768 (0 : Byte)).length = 32768 ∧
      ([] : List Byte).length ≠ 32768 :=
  ⟨rfl, List.length_replicate, by decide⟩
theorem test_witness_EncodeThenDecodeGivesTheBufferBack :
    State.reset.host.activity = .between ∧ (List.replicate 32768 (0xA5 : Byte)).length = 32768 :=
  ⟨rfl, List.length_replicate⟩
theorem test_witness_CodecFrame :
    completes (exec (.hexDecode [0x33, 0x45]) State.reset) = true ∧
      completes (exec (.hexDecode []) (uiAt (.decoding [0x45]))) = true ∧
      (State.reset.host.dec.status = .running ∧
        after (fun t => t.host.dec.status) (exec (.chBadNormal 0x47) State.reset) = some (.failed 1)) ∧
      decodeChar .normal 0x47 = .chBadNormal 0x47 ∧
      (decodeChar .normal 0x45 = .chHexNormalUpper 5 ∧
        completes (exec (.chHexNormalUpper 5) State.reset) = true) ∧
      (decodeChar .normal 0x23 = .chHash ∧ completes (exec .chHash State.reset) = true) ∧
      completes (exec (.hexEncode []) (uiAt .waitingAck)) = true := by decide
theorem test_witness_CodecFrame_encode (buf : List Byte) (h : buf.length = 32768) :
    ∃ t, exec (.hexEncode buf) State.reset = .next t :=
  ⟨_, if_pos h⟩
theorem test_witness_SaveWritesTheRemappedBank :
    State.reset.host.activity = .between ∧ State.reset.host.storage = none ∧
      (storageStep (some 0) State.reset).host.storage = some 0 ∧
      (storageStep (some 0) State.reset).host.activity = .between := by decide
theorem test_witness_SaveWritesTheRemappedBank_run :
    let s := turn (.line (encode .save)) State.reset
    ∃ (n : Nat) (t : State), s.host.activity = .between ∧
      s.book.script = .line (encode .save) :: [] ∧ [].all agentTurn = true ∧
      NoBusActivity n s ∧ runSteps n s = .next t ∧ 0 < n ∧ t.host.activity = .between := by
  obtain ⟨t, ht⟩ := save_ends 32767
    { uiAt (.saving 0 1) with
      store := (setScratchByte 0 (bankByte State.reset 0 (remapAddr 0)) State.reset).store
      book := { State.reset.book with hist := [.host .save] } } 0 1 rfl rfl ⟨rfl, rfl, rfl⟩ rfl
  have h := noBusActivity_of_endsSilently (s := turn (.line (encode .save)) State.reset)
    (e := .host .save) ⟨rfl, rfl, rfl⟩ rfl (fun _ => by simp) rfl ht
  exact ⟨_, t, rfl, rfl, rfl, h.1, h.2, by omega, ht.2.1⟩
theorem test_witness_LoadDecodesBeforeItCopies :
    let at_ (k : Option Nat) (cs : List Byte) (n : Nat) : State :=
      storageStep k (uiAt (.reading cs n))
    let row (s : State) (c : Byte) : Result :=
      exec (decodeChar s.host.dec.pstate c) { s with host.activity := .between }
    (State.reset.host.activity = .between ∧ wholeUnits .normal 0 [0x33, 0x45] = true) ∧
      ((at_ (some 1) [0x45] 1).host.dec.status = .running ∧
        (at_ (some 1) [0x45] 1).host.storage = some 1 ∧ 1 ≤ 1) ∧
      (at_ (some 9) [] 1).host.storage = some 9 ∧
      ((at_ none [0x33] 0).host.storage = none ∧ completes (row (at_ none [0x33] 0) 0x33) = true) ∧
      (let s := setDec { Decoder.initial with nib := some 1 } (at_ (some 2) [0x20] 1)
       s.host.storage = some 2 ∧ 1 < 2 ∧ refusal (row s 0x20) = some .splitUnit) ∧
      ((at_ none [] 2).host.storage = none ∧ (at_ none [] 2).host.activity = .reading [] 2) ∧
      completes (exec (.load []) (at_ none [0x33] 0)) = true := by decide
theorem test_witness_LoadCopiesTheDecodedBytes :
    let s := setActivity (.loading 3 0) (withDec { Decoder.initial with written := [0, 32767] })
    s.host.activity = .loading 3 0 ∧ (32767#15).toNat ∈ s.host.dec.written ∧
      (1#15).toNat ∉ s.host.dec.written := by decide
/-- The state after the four steps that begin a load of `3E` and decode it. -/
def loadBegun : State :=
  { setActivity (.loading 0 0) (setDec { Decoder.initial with cursor := 1, written := [0] }
      (setScratchByte 0 0x3E State.reset)) with
    book := { State.reset.book with hist := [.host (.load [0x33, 0x45])] } }

theorem test_witness_LoadCopiesTheDecodedBytes_run :
    let s := turn (.line (encode (.load [0x33, 0x45]))) State.reset
    ∃ (n : Nat) (t : State), s.host.activity = .between ∧
      s.book.script = .line (encode (.load [0x33, 0x45])) :: [] ∧ [].all agentTurn = true ∧
      NoBusActivity n s ∧ runSteps n s = .next t ∧ 0 < n ∧ t.host.activity = .between ∧
      t.host.ret = .success ∧ (0#15).toNat ∈ t.host.dec.written := by
  obtain ⟨t, ht, hr, hd⟩ := load_copy_ends 32768 loadBegun 0 0 rfl rfl ⟨rfl, rfl, rfl⟩ rfl
  have h1 : EndsSilently (32768 + 3) _ t := .step (s := setActivity (.reading [0x45] 1)
    (setDec { Decoder.initial with nib := some 3 }
      { State.reset with book.hist := [.host (.load [0x33, 0x45])] })) rfl rfl
    (.step rfl rfl ht)
  have h2 : EndsSilently (32768 + 4) _ t := .step (s := setActivity (.reading [0x33, 0x45] 0)
    { State.reset with book.hist := [.host (.load [0x33, 0x45])] }) rfl rfl h1
  have h := noBusActivity_of_endsSilently (s := turn (.line (encode (.load [0x33, 0x45]))) State.reset)
    (e := .host (.load [0x33, 0x45])) ⟨rfl, rfl, rfl⟩ rfl (fun _ => by simp) rfl h2
  exact ⟨_, t, rfl, rfl, rfl, h.1, h.2, by omega, ht.2.1, hr, by rw [hd]; decide⟩
theorem test_witness_LoadCopiesTheDecodedBytes_error :
    let s := turn (.line (encode (.load [0x21]))) State.reset
    s.host.activity = .between ∧ s.book.script = .line (encode (.load [0x21])) :: [] ∧
      NoBusActivity 2 s ∧
      after (fun t => (t.host.activity, t.host.ret)) (runSteps 2 s) =
        some (.between, .decodeError 1) := by
  refine ⟨rfl, rfl, ⟨⟨rfl, rfl, rfl⟩, ?_⟩, by decide⟩
  intro m t src hm ht
  obtain rfl | rfl : m = 0 ∨ m = 1 := by omega
  all_goals cases ht; cases src <;> decide
theorem test_witness_SaveThenLoadPermutesTheBank :
    State.reset.host.activity = .between ∧ State.reset.host.storage = none := by decide
theorem test_witness_PauseOperations :
    (State.reset.host.activity = .between ∧ State.reset.pause = ⟨false, false⟩) ∧
      (idleAt .ispin ⟨true, true⟩).pause = ⟨true, true⟩ ∧
      ((uiAt .waitingAck).host.activity = .waitingAck ∧ (uiAt .waitingAck).pause.ack = false) ∧
      (let s : State := { uiAt .waitingAck with pause := ⟨true, true⟩ }
       s.host.activity = .waitingAck ∧ s.pause.ack = true) ∧
      (State.reset.sequencer = .idle ∧ State.reset.idle = .ipoll) ∧
      ((idleAt .ipoll ⟨true, false⟩).idle = .ipoll ∧ (idleAt .ipoll ⟨true, false⟩).pause.req = true) ∧
      (idleAt .iack ⟨true, false⟩).idle = .iack ∧
      ((idleAt .ispin ⟨false, true⟩).idle = .ispin ∧ (idleAt .ispin ⟨false, true⟩).pause.req = false) ∧
      (idleAt .iresume ⟨false, true⟩).idle = .iresume := by decide
theorem test_witness_PauseFlagsHaveOneWriterEach :
    after (fun t => t.pause) (exec .preq State.reset) = some ⟨true, false⟩ ∧
      after (fun t => t.pause) (exec .prel (idleAt .ispin ⟨true, true⟩)) = some ⟨false, true⟩ ∧
      after (fun t => t.pause) (exec .iack (idleAt .iack ⟨true, false⟩)) = some ⟨true, true⟩ ∧
      after (fun t => t.pause) (exec .iresume (idleAt .iresume ⟨false, true⟩)) = some ⟨false, false⟩ ∧
      after (fun t => t.pause) (step (idleAt .iack ⟨true, false⟩)) = some ⟨true, true⟩ := by decide
theorem test_witness_StateIsWrittenByItsOwnersOnly :
    after (fun t => t.store.curBank) (exec (.setbank 3) State.reset) = some 3 ∧
      after (fun t => t.store.bank) (exec (.write 0 1 2) State.reset) = some [(1, 2)] ∧
      after (fun t => t.store.name[0])
        (exec (.clear 0) (setActivity (.clearing 0 32768) (setName 0 (.text [1]) State.reset))) =
        some .empty ∧
      after (fun t => t.store.scratch)
        (exec (.hexDecode []) (setActivity (.decoding [0x45]) (withDec { Decoder.initial with nib := some 3 }))) =
        some [(0, 0x3E)] ∧
      after (fun t => t.edge.pendIo) (exec .dispatch (latched true false)) = some false ∧
      after (fun t => t.edge.pendMem) (exec .memcyc (latched true true)) = some false ∧
      after (fun t => t.arb.mux) (exec .selpDataIn State.reset) = some .dataIn ∧
      after (fun t => (t.edge.pendIo, t.edge.pendMem))
        (exec (.edgeIo true) (withEnv { State.reset.env with iorqN := .low, mreqN := .low })) =
        some (true, true) := by decide
theorem test_witness_StepKeepsTheInvariant :
    Inv State.reset ∧ completes (step State.reset) = true ∧
      completes (step (turn (.line [0x40]) State.reset)) = true ∧
      Inv (turn (.line [0x40]) State.reset) :=
  ⟨⟨rfl, rfl, rfl, rfl, rfl, rfl⟩, by decide, by decide, ⟨rfl, rfl, rfl, rfl, rfl, rfl⟩⟩

end Sys2Proof.Tests
end

section
/-! PROOFS. The state and its owners (10_state.md): what a result ensures, the footprint of every
operation, and from these who writes each component, that handlers run to their end, and the
invariant of every step. -/

namespace Sys2Proof.Machine

/-! ### What a result ensures -/

/-- Every next state that a result answers has a property; a fault and a refusal answer none. -/
def Ensures (P : State → Prop) (r : Result) : Prop := ∀ t, r = .next t → P t

section ensures
variable {P Q : State → Prop} {s t : State}

theorem Ensures.next (h : P t) : Ensures P (.next t) := fun _ e => by cases e; exact h

theorem Ensures.refused (r : Refusal) : Ensures P (.refused r) := fun _ e => by cases e

theorem Ensures.mono {r : Result} (h : Ensures P r) (hPQ : ∀ t, P t → Q t) : Ensures Q r :=
  fun t e => hPQ t (h t e)

/-- A one-step host operation acts while the UI is between operations, else it passes. -/
theorem ensures_whenFree {act : State → Result} (hs : P s)
    (h : s.host.activity = .between → Ensures P (act s)) : Ensures P (whenFree s act) := by
  by_cases hb : s.host.activity = .between
  · rw [whenFree_between hb]; exact h hb
  · rw [whenFree_busy hb]; exact .next hs

/-- A named bank is acted on, or refused. -/
theorem ensures_withBank {bank : Byte} {act : BankNumber → Result} (h : ∀ b, Ensures P (act b)) :
    Ensures P (withBank bank act) := by
  unfold withBank
  split
  · exact h _
  · exact .refused _

/-- A guarded action meets no pending digit. -/
theorem ensures_unlessSplit {act : State → State}
    (h : splitPending s.host.dec = false → P (act s)) : Ensures P (unlessSplit s act) := by
  rcases unlessSplit_cases s act with ⟨hp, e⟩ | ⟨-, e⟩ <;> rw [e]
  · exact .next (h hp)
  · exact .refused _

/-- A character row acts in its parser states while the decode goes on, else it passes. -/
theorem ensures_charRow {states : List PState} {act : State → Result} (hs : P s)
    (h : decodeRunning s = true → s.host.dec.pstate ∈ states → Ensures P (act s)) :
    Ensures P (charRow s states act) := by
  refine ensures_whenFree hs fun _ => ?_
  split
  · next hc =>
    rw [Bool.and_eq_true, List.contains_iff_mem] at hc
    exact h hc.1 hc.2
  · exact .next hs

/-- An idle-loop row acts while no handler runs and the loop stands at it, else it passes. -/
theorem ensures_idleRow {l : IdleLabel} {act : State → State} (hs : P s)
    (h : s.sequencer = .idle → s.idle = l → P (act s)) : Ensures P (idleRow s l act) := by
  unfold idleRow
  split
  · exact .next hs
  · exact .next hs
  · next hq =>
    refine .next ?_
    split
    · next hl => exact h hq hl
    · exact hs

/-- Reading a character ensures what its action does, once the UI's place is set. -/
theorem ensures_readChar {c : Byte} {u : UiActivity} (hu : ∀ w v, Q w → P (setActivity v w))
    (h : Ensures Q (charAct c s)) : Ensures P (readChar c u s) := fun t e => by
  obtain ⟨w, hw, rfl⟩ := readChar_next e
  exact hu _ _ (h w hw)

/-- A step of a decode that goes on is its action, else the operation ends. -/
theorem ensures_whileDecoding {act : State → Result} (hs : P (setActivity .between s))
    (h : decodeRunning s = true → Ensures P (act s)) : Ensures P (whileDecoding s act) := by
  unfold whileDecoding
  split
  · next hr => exact h hr
  · exact .next hs

/-- `CLEAR` passes, or is one step of the clear. -/
theorem ensures_clear {bank : Byte} (hs : P s)
    (first : ∀ b, P (clearStep b 0 (beginHost (.clear bank) s)))
    (later : ∀ b i, P (clearStep b i s)) : Ensures P (execClear bank s) := by
  unfold execClear
  split
  · exact ensures_withBank fun b => .next (first b)
  · split
    · exact .next (later _ _)
    · exact .next hs
  all_goals exact .next hs

/-- `DECODE` passes, begins a decode, or is one step of it. -/
theorem ensures_hexDecode {stream : List Byte} (hs : P s)
    (first : P (setActivity (.decoding stream) (beginDecode (beginHost (.hexDecode stream) s))))
    (later : ∀ rest, Ensures P (decodeStep rest s)) : Ensures P (execHexDecode stream s) := by
  unfold execHexDecode
  split
  · exact .next first
  · exact later _
  all_goals exact .next hs

/-- `SAVE` passes, or is one step of its fill or of its encoding. -/
theorem ensures_save (hs : P s) (first : P (saveStep s.store.curBank 0 (beginHost .save s)))
    (fill : ∀ b a, P (saveStep b a s)) (encoding : ∀ i text, P (encodeStep i text s)) :
    Ensures P (execSave s) := by
  unfold execSave
  split
  · exact .next first
  · exact .next (fill _ _)
  · exact .next (encoding _ _)
  all_goals exact .next hs

/-- `LOAD` passes, begins a load, or is one step of its decode or of its copy. -/
theorem ensures_load {stream : List Byte} (hs : P s)
    (first : P (setActivity (.reading stream 0) (beginDecode (beginHost (.load stream) s))))
    (fetch : ∀ rest n, Ensures P (fetchStep rest n s)) (copy : ∀ b i, P (loadStep b i s)) :
    Ensures P (execLoad stream s) := by
  unfold execLoad
  split
  · exact .next first
  · exact fetch _ _
  · exact .next (copy _ _)
  all_goals exact .next hs

/-- `IOCYC` is the running handler's step, or its entry, or passes. -/
theorem ensures_iocyc (hs : P s)
    (enter : s.sequencer = .idle → s.edge.pendIo = true → P (enterHandler .io s))
    (label : ∀ l, s.sequencer = .io l → P (ioLabel l s)) : Ensures P (execIocyc s) := by
  unfold execIocyc
  split
  · next l hq => exact .next (label l hq)
  · next hq =>
    refine .next ?_
    split
    · next hp => exact enter hq hp
    · exact hs
  · exact .next hs

/-- `MEMCYC` is the running handler's step, or its entry, or passes. -/
theorem ensures_memcyc (hs : P s)
    (enter : s.sequencer = .idle → s.edge.pendMem = true → P (enterHandler .mem s))
    (label : ∀ l, s.sequencer = .mem l → P (memLabel l s)) : Ensures P (execMemcyc s) := by
  unfold execMemcyc
  split
  · next l hq => exact .next (label l hq)
  · next hq =>
    refine .next ?_
    split
    · next hp => exact enter hq hp
    · exact hs
  · exact .next hs

end ensures

/-! ### Dispatch and whole handler runs -/

/-- A dispatch passes, or enters a pending handler while none runs; to choose between two pending ones
it draws a free value (R166, R167). -/
theorem dispatch_cases (s : State) :
    dispatch s = s ∨
      s.sequencer = .idle ∧ ∃ h u, (u = s ∨ u = (draw8 s).2) ∧ dispatch s = enterHandler h u := by
  unfold dispatch
  split
  · exact .inl rfl
  · exact .inl rfl
  · next hq =>
    split
    · exact .inl rfl
    · exact .inr ⟨hq, _, _, .inl rfl, rfl⟩
    · exact .inr ⟨hq, _, _, .inl rfl, rfl⟩
    · exact .inr ⟨hq, _, _, .inr rfl, rfl⟩

/-- Steps of the I/O handler keep what each of its labels keeps. -/
theorem ioSteps_induct {P : State → Prop} (label : ∀ l u, u.sequencer = .io l → P u → P (ioLabel l u))
    (n : Nat) {s : State} (hs : P s) : P (ioSteps n s) := by
  induction n generalizing s with
  | zero => exact hs
  | succ n ih =>
    apply ih
    unfold ioStep
    split
    · next l hq => exact label l s hq hs
    all_goals exact hs

/-- As `ioSteps_induct`, for the memory handler. -/
theorem memSteps_induct {P : State → Prop}
    (label : ∀ l u, u.sequencer = .mem l → P u → P (memLabel l u))
    (n : Nat) {s : State} (hs : P s) : P (memSteps n s) := by
  induction n generalizing s with
  | zero => exact hs
  | succ n ih =>
    apply ih
    unfold memStep
    split
    · next l hq => exact label l s hq hs
    all_goals exact hs

/-- While a handler runs, a whole I/O run is no operation. -/
theorem ioRun_of_busy {s : State} (o : IoOutcome) (h : s.sequencer ≠ .idle) : ioRun o s = s := by
  unfold ioRun
  split
  · rfl
  · rfl
  · contradiction

/-- While a handler runs, a whole memory run is no operation. -/
theorem memRun_of_busy {s : State} (o : MemOutcome) (h : s.sequencer ≠ .idle) : memRun o s = s := by
  unfold memRun
  split
  · rfl
  · rfl
  · contradiction

/-- A whole I/O run passes, or it is the run from entry to exit with this outcome. -/
theorem ioRun_cases (o : IoOutcome) (s : State) :
    ioRun o s = s ∨ s.sequencer = .idle ∧ ioOutcome (ioToTest s) = o ∧
      ioRun o s = ioSteps 6 (ioSteps 8 (enterHandler .io s)) := by
  unfold ioRun
  split
  · exact .inl rfl
  · exact .inl rfl
  · next hq =>
    split
    · next hc =>
      rw [Bool.and_eq_true, beq_iff_eq] at hc
      exact .inr ⟨hq, hc.2, rfl⟩
    · exact .inl rfl

/-- A whole I/O run keeps what its entry and each of its labels keep. -/
theorem ioRun_induct {P : State → Prop} {s : State} (o : IoOutcome) (hs : P s)
    (enter : s.sequencer = .idle → P (enterHandler .io s))
    (label : ∀ l u, u.sequencer = .io l → P u → P (ioLabel l u)) : P (ioRun o s) := by
  rcases ioRun_cases o s with e | ⟨hq, -, e⟩ <;> rw [e]
  · exact hs
  · exact ioSteps_induct label 6 (ioSteps_induct label 8 (enter hq))

/-- A whole memory run keeps what its entry and each of its labels keep. -/
theorem memRun_induct {P : State → Prop} {s : State} (o : MemOutcome) (hs : P s)
    (enter : s.sequencer = .idle → P (enterHandler .mem s))
    (label : ∀ l u, u.sequencer = .mem l → P u → P (memLabel l u)) : P (memRun o s) := by
  unfold memRun
  split
  · exact hs
  · exact hs
  · next hq =>
    split
    · exact memSteps_induct label 10 (memSteps_induct label 6 (enter hq))
    · exact hs

/-! ### Footprints: the components of the state, and what each operation may write -/

/-- The components of the state (R13 to R41), as finely as the operations write them. -/
inductive Component where
  | env | arb | regs | sequencer
  | pendIo | pendMem | prevIorq | prevMreq
  | bank | curBank | name | scratch
  | req | ack | idle
  | activity | dec | ret | fileOut | storage
  | hist | draws | cpuLatch | script
deriving DecidableEq

/-- Two states agree in a component. -/
def Same (s t : State) : Component → Prop
  | .env => t.env = s.env
  | .arb => t.arb = s.arb
  | .regs => t.regs = s.regs
  | .sequencer => t.sequencer = s.sequencer
  | .pendIo => t.edge.pendIo = s.edge.pendIo
  | .pendMem => t.edge.pendMem = s.edge.pendMem
  | .prevIorq => t.edge.prevIorq = s.edge.prevIorq
  | .prevMreq => t.edge.prevMreq = s.edge.prevMreq
  | .bank => t.store.bank = s.store.bank
  | .curBank => t.store.curBank = s.store.curBank
  | .name => t.store.name = s.store.name
  | .scratch => t.store.scratch = s.store.scratch ∧ t.store.scratchFill = s.store.scratchFill
  | .req => t.pause.req = s.pause.req
  | .ack => t.pause.ack = s.pause.ack
  | .idle => t.idle = s.idle
  | .activity => t.host.activity = s.host.activity
  | .dec => t.host.dec = s.host.dec
  | .ret => t.host.ret = s.host.ret
  | .fileOut => t.host.fileOut = s.host.fileOut
  | .storage => t.host.storage = s.host.storage
  | .hist => t.book.hist = s.book.hist
  | .draws => t.book.draws = s.book.draws
  | .cpuLatch => t.book.cpuLatch = s.book.cpuLatch
  | .script => t.book.script = s.book.script

theorem Same.trans {s t u : State} {c : Component} (h : Same s t c) (h' : Same t u c) :
    Same s u c := by
  cases c
  case scratch => exact ⟨h'.1.trans h.1, h'.2.trans h.2⟩
  all_goals exact Eq.trans h' h

/-- From `s` to `t` at most the components of `cs` are written. -/
def Touches (cs : List Component) (s t : State) : Prop := ∀ c, c ∉ cs → Same s t c

theorem Touches.refl {cs : List Component} {s : State} : Touches cs s s := fun c _ => by
  cases c <;> simp [Same]

/-- A footprint grows by what is written next. -/
theorem Touches.then {cs ds : List Component} {s t u : State} (h : Touches cs s t)
    (h' : Touches ds t u) (hd : ∀ c ∈ ds, c ∈ cs := by decide) : Touches cs s u :=
  fun c hc => (h c hc).trans (h' c fun hm => hc (hd c hm))

/-- A footprint may be widened. -/
theorem Touches.mono {cs ds : List Component} {s t : State} (h : Touches ds s t)
    (hd : ∀ c ∈ ds, c ∈ cs := by decide) : Touches cs s t := Touches.refl.then h hd

/-! ### The footprints of the shared operations -/

section shared
variable (s : State)

@[simp] theorem selectPhase_cpuLatch (p : MuxState) :
    (selectPhase p s).book.cpuLatch = s.book.cpuLatch := by simp [selectPhase]
@[simp] theorem selectPhase_draws (p : MuxState) :
    (selectPhase p s).book.draws = s.book.draws := by simp [selectPhase]
@[simp] theorem neutral_cpuLatch : (neutral s).book.cpuLatch = s.book.cpuLatch := by
  unfold neutral; split <;> simp
@[simp] theorem neutral_draws : (neutral s).book.draws = s.book.draws := by
  unfold neutral; split <;> simp

theorem touches_emit (e : Event) : Touches [.hist] s (emit e s) := by
  intro c hc; cases c <;> simp_all [Same]

theorem touches_draw8 : Touches [.draws] s (draw8 s).2 := by
  intro c hc; cases c <;> simp_all [Same]

theorem touches_giveBack (r : RetVal) : Touches [.ret] s (giveBack r s) := by
  intro c hc; cases c <;> simp_all [Same]

theorem touches_goto (q : Sequencer) : Touches [.sequencer] s (goto q s) := by
  intro c hc; cases c <;> simp_all [Same]

theorem touches_setActivity (u : UiActivity) : Touches [.activity] s (setActivity u s) := by
  intro c hc; cases c <;> simp_all [Same]

theorem touches_setBankByte (b : BankNumber) (i : BankIndex) (v : Byte) :
    Touches [.bank] s (setBankByte b i v s) := by
  intro c hc; cases c <;> simp_all [Same]

theorem touches_setScratchByte (i : Nat) (v : Byte) :
    Touches [.scratch] s (setScratchByte i v s) := by
  intro c hc; cases c <;> simp_all [Same]

theorem touches_setName (b : BankNumber) (n : BankName) : Touches [.name] s (setName b n s) := by
  intro c hc; cases c <;> simp_all [Same]

theorem touches_setDec (d : Decoder) : Touches [.dec] s (setDec d s) := by
  intro c hc; cases c <;> simp_all [Same]

theorem touches_beginHost (op : Instr) : Touches [.hist] s (beginHost op s) := touches_emit s _

theorem touches_settleWait (k : SettlePoint) : Touches [.arb] s (settleWait k s) := by
  intro c hc; cases c <;> simp_all [Same]

theorem touches_releaseLines : Touches [.arb] s (releaseLines s) := by
  intro c hc; cases c <;> simp_all [Same]

theorem touches_emitTests (ls : List CtlLine) : Touches [.hist] s (emitTests ls s) := by
  intro c hc; cases c <;> simp_all [Same]

theorem touches_noteContention (t : State) : Touches [.hist] t (noteContention s t) := by
  intro c hc; cases c <;> simp_all [Same]

theorem touches_selectPhase (p : MuxState) : Touches [.arb, .hist] s (selectPhase p s) := by
  intro c hc; cases c <;> simp_all [Same]

theorem touches_neutral : Touches [.arb, .hist] s (neutral s) := by
  intro c hc; cases c <;> simp_all [Same]

/-- The shared lines' mode and byte alone. -/
theorem touches_setShOut (v : Byte) :
    Touches [.arb] s { s with arb.shOut := v, arb.shMode := .output } := by
  intro c hc; cases c <;> simp_all [Same]

theorem touches_driveLines (v : Byte) : Touches [.arb, .hist] s (driveLines v s) := by
  have hset := (touches_setShOut s v).mono (cs := [.arb, .hist])
  unfold driveLines
  refine .then ?_ (touches_noteContention _ _)
  split
  · exact hset.then (touches_emit _ _)
  · exact hset

theorem touches_driveData (v : Byte) : Touches [.arb, .hist] s (driveData v s) := by
  intro c hc; cases c <;> simp_all [Same, driveData]

theorem touches_sampled : Touches [.draws] s (sampled s).2 := by
  rcases sampled_state s with h | h <;> rw [h]
  · exact .refl
  · exact touches_draw8 s

theorem touches_writeSampled (r : SampReg) (v : Byte) : Touches [.regs] s (writeSampled r v s) := by
  intro c hc; cases r <;> cases c <;> simp_all [Same, writeSampled]

theorem touches_sample (r : SampReg) : Touches [.regs, .hist, .draws] s (sample r s) :=
  ((touches_sampled s).mono.then (touches_emit _ _)).then (touches_writeSampled _ r _)

theorem touches_bankWrite (b : BankNumber) (a : Addr) (v : Byte) :
    Touches [.bank, .hist] s (bankWrite b a v s) :=
  (touches_setBankByte s b _ v).mono.then (touches_emit _ _)

theorem touches_enterIo :
    Touches [.regs, .sequencer, .pendIo, .hist] s (enterHandler .io s) := by
  intro c hc; rw [enterHandler_io]; cases c <;> simp_all [Same]

theorem touches_enterMem : Touches [.sequencer, .pendMem, .hist] s (enterHandler .mem s) := by
  intro c hc; rw [enterHandler_mem]; cases c <;> simp_all [Same]

theorem touches_leaveHandler : Touches [.sequencer, .hist] s (leaveHandler s) := by
  unfold leaveHandler
  split
  · exact .refl
  all_goals exact (touches_goto s .idle).mono.then (touches_emit _ _)

theorem touches_observeIorq : Touches [.pendIo, .prevIorq, .hist] s (observeIorq s) := by
  intro c hc
  unfold observeIorq
  split <;> cases c <;> simp_all [Same]

theorem touches_observeMreq : Touches [.pendMem, .prevMreq, .hist] s (observeMreq s) := by
  intro c hc
  unfold observeMreq
  split <;> cases c <;> simp_all [Same]

theorem touches_raiseDecodeError :
    Touches [.scratch, .dec, .ret, .hist] s (raiseDecodeError s) := by
  intro c hc; cases c <;> simp_all [Same, raiseDecodeError]

end shared

/-! ### The footprints of the handlers -/

/-- What a handler's own steps may write, bank bytes apart. -/
@[simp] def handlerCells : List Component := [.arb, .regs, .sequencer, .hist, .draws]

/-- The one label that may write a bank byte is IO3bc, and it writes none at a console hit (R106,
R107). -/
theorem touches_ioLabel {l : IoLabel} {s : State}
    (h : l = .io3bc → consoleHit s.regs.ea = true) : Touches handlerCells s (ioLabel l s) := by
  cases l with
  | io0 => exact (touches_goto _ _).mono
  | io1a | io2a | io3a1 => exact (touches_selectPhase s _).mono.then (touches_goto _ _)
  | io1b | io2b | io3a2 => exact (touches_settleWait s _).mono.then (touches_goto _ _)
  | io1c => exact (touches_releaseLines s).mono.then (touches_goto _ _)
  | io1d | io2c | io3a3 => exact (touches_sample s _).mono.then (touches_goto _ _)
  | io3 =>
    have ht := (touches_emitTests s [Config.ioDirLine]).mono (cs := handlerCells)
    simp only [ioLabel]
    split
    · exact ht.then (touches_goto _ _)
    · exact (ht.then (touches_emit _ _)).then (touches_goto _ _)
  | io3bc =>
    simp only [ioLabel, h rfl, if_true]
    exact (touches_emit s _).mono.then (touches_goto _ _)
  | io4 => exact (touches_neutral s).mono.then (touches_leaveHandler _)

/-- What any step of the I/O handler may write. -/
theorem touches_ioLabel_bank (l : IoLabel) (s : State) :
    Touches (.bank :: handlerCells) s (ioLabel l s) := by
  by_cases h : l = .io3bc ∧ consoleHit s.regs.ea = false
  · obtain ⟨rfl, hc⟩ := h
    simp only [ioLabel, hc]
    exact (touches_bankWrite s _ _ _).mono.then (touches_goto _ _)
  · exact (touches_ioLabel fun hl => by simpa [hl] using h).mono

theorem touches_memLabel (l : MemLabel) (s : State) : Touches handlerCells s (memLabel l s) := by
  have hkind (k : CycleKind) (u : State) : Touches [.regs] u { u with regs.kind := k } := by
    intro c hc; cases c <;> simp_all [Same]
  cases l with
  | m0 => exact (touches_goto _ _).mono
  | m1a | m3a => exact (touches_selectPhase s _).mono.then (touches_goto _ _)
  | m1b | m3b | m5b => exact (touches_settleWait s _).mono.then (touches_goto _ _)
  | m1c | m3c => exact (touches_sample s _).mono.then (touches_goto _ _)
  | m1d | m3d | m5c => exact (touches_neutral s).mono.then (touches_goto _ _)
  | m1e => exact (touches_releaseLines s).mono.then (touches_goto _ _)
  | m2 =>
    have ht (k) := ((touches_emitTests s [.mreq, .rd]).mono (cs := handlerCells)).then (hkind k _)
    simp only [memLabel]
    split
    · exact (ht .memRead).then (touches_goto _ _)
    · exact ((ht .memUnserviced).then (touches_emit _ _)).then (touches_leaveHandler _)
  | m4 =>
    exact ((touches_writeSampled s .data _).mono.then (touches_emit _ _)).then (touches_goto _ _)
  | m5a => exact (touches_driveData s _).mono.then (touches_goto _ _)
  | m5d => exact (touches_releaseLines s).mono.then (touches_leaveHandler _)

/-! ### Runs that store nothing -/

/-- A handler past its address that will write no bank byte: no write is indicated at its test, or
the address is the console's (R104, R106). -/
def StoresNothing (s : State) : Prop :=
  match s.sequencer with
  | .io .io3 => writeIndicated (lineLevel s Config.ioDirLine) = true → consoleHit s.regs.ea = true
  | .io .io3a1 | .io .io3a2 | .io .io3a3 | .io .io3bc => consoleHit s.regs.ea = true
  | .idle | .io .io4 => True
  | .io .io0 | .io .io1a | .io .io1b | .io .io1c | .io .io1d | .io .io2a | .io .io2b | .io .io2c
  | .mem _ => False

/-- Only the high byte's sample forms `ea` (R95). -/
theorem sample_data_ea (s : State) : (sample .data s).regs.ea = s.regs.ea := by
  rcases sampled_state s with h | h <;> simp [sample, writeSampled, h]

theorem ioLabel_storesNothing {l : IoLabel} {s : State} (hq : s.sequencer = .io l)
    (h : StoresNothing s) : StoresNothing (ioLabel l s) := by
  cases l <;> simp only [StoresNothing, hq] at h
  case io3 =>
    simp only [ioLabel]
    split
    · next hw => exact h hw
    · trivial
  case io3a1 | io3a2 => simpa [ioLabel, StoresNothing] using h
  case io3a3 => simpa [ioLabel, StoresNothing, sample_data_ea] using h
  case io3bc => trivial
  case io4 => simp [ioLabel, StoresNothing]

/-- A run that will store nothing does not write the bank. -/
theorem ioSteps_bank_of_storesNothing {s : State} (n : Nat) (h : StoresNothing s) :
    (ioSteps n s).store.bank = s.store.bank := by
  refine (ioSteps_induct (P := fun u => StoresNothing u ∧ u.store.bank = s.store.bank) ?_ n
    ⟨h, rfl⟩).2
  rintro l u hq ⟨hu, hb⟩
  refine ⟨ioLabel_storesNothing hq hu, ?_⟩
  have ht : Touches handlerCells u (ioLabel l u) := touches_ioLabel fun hl => by
    subst hl; simpa [StoresNothing, hq] using hu
  exact Eq.trans (ht .bank (by decide)) hb

/-- The address half of an I/O run ends at the direction test. -/
theorem ioToTest_sequencer (s : State) : (ioToTest s).sequencer = .io .io3 := by
  simp [ioToTest, ioSteps, ioStep, ioLabel, enterHandler_io]

/-- The address half of an I/O run writes no bank byte. -/
theorem ioToTest_bank (s : State) : (ioToTest s).store.bank = s.store.bank := by
  simp [ioToTest, ioSteps, ioStep, ioLabel, enterHandler_io]

/-- A whole run with another outcome than `IOWR_MEM` writes no bank byte. -/
theorem ioRun_bank {o : IoOutcome} (ho : o ≠ .iowrMem) (s : State) :
    (ioRun o s).store.bank = s.store.bank := by
  rcases ioRun_cases o s with e | ⟨-, hout, e⟩ <;> rw [e]
  have h : StoresNothing (ioToTest s) := by
    simp only [StoresNothing, ioToTest_sequencer]
    intro hw
    by_contra hc
    apply ho
    simp [← hout, ioOutcome, hw, hc]
  exact (ioSteps_bank_of_storesNothing 6 h).trans (ioToTest_bank s)

/-- What a whole I/O run may write. -/
@[simp] def ioRunCells : List Component := .bank :: .pendIo :: handlerCells

theorem touches_ioRun (o : IoOutcome) (s : State) : Touches ioRunCells s (ioRun o s) :=
  ioRun_induct o .refl (fun _ => (touches_enterIo s).mono)
    (fun l u _ h => h.then (touches_ioLabel_bank l u))

/-- What a whole run that stores nothing may write. -/
theorem touches_ioRun_of_ne {o : IoOutcome} (ho : o ≠ .iowrMem) (s : State) :
    Touches (.pendIo :: handlerCells) s (ioRun o s) := by
  intro c hc
  by_cases hb : c = .bank
  · subst hb; exact ioRun_bank ho s
  · exact touches_ioRun o s c (by simp_all [ioRunCells])

theorem touches_memRun (o : MemOutcome) (s : State) :
    Touches (.pendMem :: handlerCells) s (memRun o s) :=
  memRun_induct o .refl (fun _ => (touches_enterMem s).mono)
    (fun l u _ h => h.then (touches_memLabel l u))

theorem touches_dispatch (s : State) :
    Touches [.regs, .sequencer, .pendIo, .pendMem, .hist, .draws] s (dispatch s) := by
  rcases dispatch_cases s with e | ⟨-, h, u, hu, e⟩ <;> rw [e]
  · exact .refl
  · have ht : Touches [.draws] s u := by
      rcases hu with rfl | rfl
      · exact .refl
      · exact touches_draw8 s
    cases h with
    | io => exact ht.mono.then (touches_enterIo u)
    | mem => exact ht.mono.then (touches_enterMem u)

/-! ### The footprints of the host side -/

section hostSide
variable (s : State)

theorem touches_setDraws (n : Nat) : Touches [.draws] s { s with book.draws := n } := by
  intro c hc; cases c <;> simp_all [Same]

theorem touches_setFileOut (text : List Byte) :
    Touches [.fileOut] s { s with host.fileOut := text } := by
  intro c hc; cases c <;> simp_all [Same]

theorem touches_setReq (b : Bool) : Touches [.req] s { s with pause.req := b } := by
  intro c hc; cases c <;> simp_all [Same]

theorem touches_setIdle (l : IdleLabel) : Touches [.idle] s { s with idle := l } := by
  intro c hc; cases c <;> simp_all [Same]

theorem touches_setAck (b : Bool) (l : IdleLabel) :
    Touches [.ack, .idle] s { s with pause.ack := b, idle := l } := by
  intro c hc; cases c <;> simp_all [Same]

theorem touches_setCurBank (b : BankNumber) :
    Touches [.curBank] s { s with store.curBank := b } := by
  intro c hc; cases c <;> simp_all [Same]

theorem touches_clearStep (b : BankNumber) (i : Nat) :
    Touches [.bank, .name, .activity] s (clearStep b i s) := by
  unfold clearStep
  split
  · exact (touches_setBankByte s _ _ _).mono.then (touches_setActivity _ _)
  · exact (touches_setName s _ _).mono.then (touches_setActivity _ _)

theorem touches_handToFile (text : List Byte) : Touches [.ret, .fileOut] s (handToFile text s) := by
  unfold handToFile
  split <;> exact (touches_setFileOut s _).mono.then (touches_giveBack _ _)

theorem touches_encodeStep (i : Nat) (text : List Byte) :
    Touches [.activity, .ret, .fileOut] s (encodeStep i text s) := by
  unfold encodeStep
  split
  · exact (touches_setActivity s _).mono
  · exact (touches_handToFile s _).mono.then (touches_setActivity _ _)

theorem touches_saveStep (b : BankNumber) (a : Nat) :
    Touches [.scratch, .activity, .ret, .fileOut] s (saveStep b a s) := by
  unfold saveStep
  split
  · exact (touches_setScratchByte s _ _).mono.then (touches_setActivity _ _)
  · exact (touches_encodeStep s _ _).mono

theorem touches_loadStep (b : BankNumber) (i : Nat) :
    Touches [.bank, .name, .activity, .ret, .draws] s (loadStep b i s) := by
  unfold loadStep
  split
  · have hdraw : Touches [.draws] s
        (if s.host.dec.written.contains i then (scratchByte s i, s) else draw8 s).2 := by
      split
      · exact .refl
      · exact touches_draw8 s
    exact (hdraw.mono.then (touches_setBankByte _ _ _ _)).then (touches_setActivity _ _)
  · exact (((touches_setDraws s _).mono.then (touches_setName _ _ _)).then
      (touches_giveBack _ _)).then (touches_setActivity _ _)

/-! ### The footprints of the decoder -/

/-- What a character may write: the decoder, and, where it stores or is an error, the scratch buffer
and the caller's slot (R131 to R142). -/
@[simp] def codecCells : List Component := [.scratch, .dec, .ret, .hist]

theorem touches_lineEnd (lf : Bool) : Ensures (Touches [.dec] s) (lineEnd lf s) :=
  ensures_unlessSplit fun _ => touches_setDec s _

theorem touches_hashMark : Ensures (Touches [.dec] s) (hashMark s) := by
  unfold hashMark
  split
  · exact .next .refl
  all_goals exact ensures_unlessSplit fun _ => touches_setDec s _

theorem touches_originMark : Ensures (Touches [.dec] s) (originMark s) := by
  unfold originMark
  split
  · exact .next .refl
  all_goals exact ensures_unlessSplit fun _ => touches_setDec s _

theorem touches_separator : Ensures (Touches [] s) (separator s) := by
  unfold separator
  split
  · exact .next .refl
  all_goals exact ensures_unlessSplit fun _ => .refl

theorem touches_storeByte (v : Byte) : Touches codecCells s (storeByte v s) := by
  rcases storeByte_cases v s with ⟨-, e⟩ | ⟨-, e⟩ <;> rw [e]
  · exact (touches_setScratchByte s _ _).mono.then (touches_setDec _ _)
  · exact touches_raiseDecodeError s

theorem touches_dataDigit (d : BitVec 4) : Touches codecCells s (dataDigit d s) := by
  unfold dataDigit
  split
  · exact (touches_setDec s _).mono
  · exact (touches_setDec s _).mono.then (touches_storeByte _ _)

theorem touches_applyOrigin (o : BitVec 16) : Touches codecCells s (applyOrigin o s) := by
  rcases applyOrigin_cases o s with ⟨-, -, e⟩ | ⟨-, e⟩ <;> rw [e]
  · exact (touches_setDec s _).mono
  · exact touches_raiseDecodeError s

theorem touches_leaveOrigin : Touches [.dec] s (leaveOrigin s) := by
  unfold leaveOrigin
  split
  · exact touches_setDec s _
  · exact .refl

theorem touches_originDigitAct (d : BitVec 4) : Touches codecCells s (originDigitAct d s) := by
  have hset (e : Decoder) := (touches_setDec s e).mono (cs := codecCells)
  unfold originDigitAct
  simp only
  split
  · exact ((hset _).then (touches_applyOrigin _ _)).then (touches_leaveOrigin _)
  · exact hset _

theorem touches_charAct (c : Byte) : Ensures (Touches codecCells s) (charAct c s) := by
  unfold charAct
  split
  · exact (touches_lineEnd s _).mono fun _ h => h.mono
  iterate 5 exact .next .refl
  iterate 2 exact (touches_hashMark s).mono fun _ h => h.mono
  iterate 2 exact (touches_originMark s).mono fun _ h => h.mono
  iterate 2 exact (touches_separator s).mono fun _ h => h.mono
  · exact .next (touches_dataDigit s _)
  · exact .next (touches_originDigitAct s _)
  all_goals exact .next (touches_raiseDecodeError s)

theorem touches_readChar (c : Byte) (u : UiActivity) :
    Ensures (Touches (.activity :: codecCells) s) (readChar c u s) :=
  ensures_readChar (fun _ _ h => h.mono.then (touches_setActivity _ _)) (touches_charAct s c)

theorem touches_decodeStep (rest : List Byte) :
    Ensures (Touches (.activity :: codecCells) s) (decodeStep rest s) := by
  refine ensures_whileDecoding (touches_setActivity s _).mono fun _ => ?_
  split
  · exact ensures_unlessSplit fun _ =>
      (touches_giveBack s _).mono.then (touches_setActivity _ _)
  · exact touches_readChar s _ _

theorem touches_fetchStep (rest : List Byte) (n : Nat) :
    Ensures (Touches (.activity :: codecCells) s) (fetchStep rest n s) := by
  refine ensures_whileDecoding (touches_setActivity s _).mono fun _ => ?_
  split
  · exact .next ((touches_giveBack s _).mono.then (touches_setActivity _ _))
  · split
    · exact ensures_unlessSplit fun _ => (touches_setActivity s _).mono
    · exact touches_readChar s _ _

theorem touches_beginDecode (op : Instr) (u : UiActivity) :
    Touches [.dec, .activity, .hist] s (setActivity u (beginDecode (beginHost op s))) :=
  ((touches_beginHost s op).mono.then (touches_setDec _ _)).then (touches_setActivity _ _)

end hostSide

/-! ### The footprint of every operation -/

/-- The components an operation may write. -/
@[simp] def writes : Instr → List Component
  | .selpLowAddrIn | .selpHighAddrIn | .selpDataIn | .selpDataOut | .neut | .shout _ =>
    [.arb, .hist]
  | .settle _ | .shin => [.arb]
  | .samp _ => [.regs, .hist, .draws]
  | .tst _ => [.ret, .hist]
  | .edgeIo m => [.pendIo, .prevIorq, .hist] ++ if m then [.pendMem, .prevMreq] else []
  | .edgeMem => [.pendMem, .prevMreq, .hist]
  | .dispatch => [.regs, .sequencer, .pendIo, .pendMem, .hist, .draws]
  | .iret => [.sequencer, .hist]
  | .iocyc | .iowrMem _ _ => ioRunCells
  | .iowrCon _ _ | .ioNowr _ _ _ => .pendIo :: handlerCells
  | .memcyc | .memrd _ _ | .memAbortRdInactive _ _ | .memAbortMreqInactive _ _ _ =>
    .pendMem :: handlerCells
  | .bankRead _ _ => [.ret]
  | .bankWrite _ _ _ | .write _ _ _ => [.bank, .hist]
  | .read _ _ | .curbank | .remap _ => [.ret, .hist]
  | .clear _ => [.bank, .name, .activity, .hist]
  | .setbank _ => [.curBank, .hist]
  | .hexDecode _ => .activity :: codecCells
  | .chLtLf | .chLtCr | .chHash | .chOrgAt | .chOrgColon => [.dec]
  | .chSepSpace | .chSepTab | .chAnyComment _ => []
  | .chHexNormalDigit _ | .chHexNormalUpper _ | .chHexNormalLower _ | .chHexOriginDigit _
  | .chHexOriginUpper _ | .chHexOriginLower _ | .chBadNormal _ | .chBadOrigin _ => codecCells
  | .hexEncode _ => [.fileOut, .hist]
  | .save => [.scratch, .activity, .ret, .fileOut, .hist]
  | .load _ => .bank :: .name :: .activity :: .draws :: codecCells
  | .preq | .prel => [.req, .hist]
  | .pwait => [.activity, .hist]
  | .ipoll | .ispin => [.idle]
  | .iack | .iresume => [.ack, .idle]

/-- Every operation keeps to its footprint. -/
theorem exec_touches (i : Instr) (s : State) : Ensures (Touches (writes i) s) (exec i s) := by
  have hbegin (op : Instr) {cs} (h : ∀ c ∈ [Component.hist], c ∈ cs) :
      Touches cs s (beginHost op s) := (touches_beginHost s op).mono h
  cases i with
  | selpLowAddrIn | selpHighAddrIn | selpDataIn | selpDataOut =>
    exact .next (touches_selectPhase s _)
  | neut => exact .next (touches_neutral s)
  | settle k => exact .next (touches_settleWait s k)
  | shin => exact .next (touches_releaseLines s)
  | shout v => exact .next (touches_driveLines s v)
  | samp r => exact .next (touches_sample s r)
  | tst l =>
    dsimp only [exec, execTst, writes]
    exact .next ((touches_emitTests s _).mono.then (touches_giveBack _ _))
  | edgeIo m =>
    cases m with
    | false => exact .next (touches_observeIorq s)
    | true => exact .next ((touches_observeMreq s).mono.then (touches_observeIorq _))
  | edgeMem => exact .next (touches_observeMreq s)
  | dispatch => exact .next (touches_dispatch s)
  | iret => exact .next (touches_leaveHandler s)
  | iocyc =>
    exact ensures_iocyc .refl (fun _ _ => (touches_enterIo s).mono)
      (fun l _ => (touches_ioLabel_bank l s).mono)
  | memcyc =>
    exact ensures_memcyc .refl (fun _ _ => (touches_enterMem s).mono)
      (fun l _ => (touches_memLabel l s).mono)
  | memrd | memAbortRdInactive | memAbortMreqInactive => exact .next (touches_memRun _ s)
  | iowrMem => exact .next (touches_ioRun _ s)
  | iowrCon | ioNowr => exact .next (touches_ioRun_of_ne (by decide) s)
  | bankRead => exact .next (touches_giveBack s _)
  | bankWrite => exact .next (touches_bankWrite s _ _ _)
  | read =>
    dsimp only [exec, execRead, writes]
    exact ensures_whenFree .refl fun _ => ensures_withBank fun _ =>
      .next ((hbegin _ (by decide)).then (touches_giveBack _ _))
  | write =>
    dsimp only [exec, execWrite, writes]
    exact ensures_whenFree .refl fun _ => ensures_withBank fun _ =>
      .next ((hbegin _ (by decide)).then (touches_bankWrite _ _ _ _))
  | clear =>
    dsimp only [exec, writes]
    exact ensures_clear .refl (fun _ => (hbegin _ (by decide)).then (touches_clearStep _ _ _))
      (fun _ _ => (touches_clearStep s _ _).mono)
  | curbank =>
    dsimp only [exec, execCurbank, writes]
    exact ensures_whenFree .refl fun _ =>
      .next ((hbegin _ (by decide)).then (touches_giveBack _ _))
  | setbank n =>
    dsimp only [exec, execSetbank, writes]
    refine ensures_whenFree .refl fun _ => ?_
    split
    · exact .refused _
    · exact .next ((hbegin _ (by decide)).then (touches_setCurBank _ _))
  | remap a =>
    dsimp only [exec, execRemap, writes]
    refine ensures_whenFree .refl fun _ => ?_
    split
    · exact .next ((hbegin _ (by decide)).then (touches_giveBack _ _))
    · exact .refused _
  | hexDecode =>
    dsimp only [exec, writes]
    exact ensures_hexDecode .refl (touches_beginDecode s _ _).mono (touches_decodeStep s)
  | chLtLf | chLtCr =>
    dsimp only [exec, execChLtLf, execChLtCr, writes]
    exact ensures_charRow .refl fun _ _ => touches_lineEnd s _
  | chHash =>
    dsimp only [exec, execChHash, writes]
    exact ensures_charRow .refl fun _ _ => touches_hashMark s
  | chOrgAt | chOrgColon =>
    dsimp only [exec, execChOrgAt, execChOrgColon, writes]
    exact ensures_charRow .refl fun _ _ => touches_originMark s
  | chSepSpace | chSepTab =>
    dsimp only [exec, execChSepSpace, execChSepTab, writes]
    exact ensures_charRow .refl fun _ _ => touches_separator s
  | chHexNormalDigit | chHexNormalUpper | chHexNormalLower =>
    dsimp only [exec, execChHexNormalDigit, execChHexNormalUpper, execChHexNormalLower, writes]
    exact ensures_charRow .refl fun _ _ => .next (touches_dataDigit s _)
  | chHexOriginDigit | chHexOriginUpper | chHexOriginLower =>
    dsimp only [exec, execChHexOriginDigit, execChHexOriginUpper, execChHexOriginLower, writes]
    exact ensures_charRow .refl fun _ _ => .next (touches_originDigitAct s _)
  | chBadNormal | chBadOrigin =>
    dsimp only [exec, execChBadNormal, execChBadOrigin, writes]
    exact ensures_charRow .refl fun _ _ => .next (touches_raiseDecodeError s)
  | chAnyComment =>
    dsimp only [exec, execChAnyComment, writes]
    exact ensures_charRow .refl fun _ _ => .next .refl
  | hexEncode =>
    dsimp only [exec, execHexEncode, writes]
    refine ensures_whenFree .refl fun _ => ?_
    split
    · exact .next ((hbegin _ (by decide)).then (touches_setFileOut _ _))
    · exact .refused _
  | save =>
    dsimp only [exec, writes]
    exact ensures_save .refl ((hbegin _ (by decide)).then (touches_saveStep _ _ _))
      (fun _ _ => (touches_saveStep s _ _).mono) (fun _ _ => (touches_encodeStep s _ _).mono)
  | load =>
    dsimp only [exec, writes]
    exact ensures_load .refl (touches_beginDecode s _ _).mono
      (fun _ _ => (touches_fetchStep s _ _).mono fun _ h => h.mono)
      (fun _ _ => (touches_loadStep s _ _).mono)
  | preq =>
    dsimp only [exec, execPreq, writes]
    refine ensures_whenFree .refl fun _ => ?_
    split
    · exact .refused _
    · exact .next ((hbegin _ (by decide)).then (touches_setReq _ _))
  | pwait =>
    dsimp only [exec, execPwait, writes]
    split
    · refine .next ?_
      split
      · exact hbegin _ (by decide)
      · exact (hbegin _ (by decide)).then (touches_setActivity _ _)
    · refine .next ?_
      split
      · exact (touches_setActivity s _).mono
      · exact .refl
    all_goals exact .next .refl
  | prel =>
    dsimp only [exec, execPrel, writes]
    exact ensures_whenFree .refl fun _ =>
      .next ((hbegin _ (by decide)).then (touches_setReq _ _))
  | ipoll =>
    dsimp only [exec, execIpoll, writes]
    exact ensures_idleRow .refl fun _ _ => touches_setIdle s _
  | iack =>
    dsimp only [exec, execIack, writes]
    exact ensures_idleRow .refl fun _ _ => touches_setAck s _ _
  | ispin =>
    dsimp only [exec, execIspin, writes]
    exact ensures_idleRow .refl fun _ _ => touches_setIdle s _
  | iresume =>
    dsimp only [exec, execIresume, writes]
    exact ensures_idleRow .refl fun _ _ => touches_setAck s _ _

/-- A component an operation may not write is kept. -/
theorem exec_same {i : Instr} {s t : State} {c : Component} (h : exec i s = .next t)
    (hc : c ∉ writes i) : Same s t c := exec_touches i s t h c hc

/-- A component that changed is in the operation's footprint. -/
theorem mem_writes_of_ne {i : Instr} {s t : State} {c : Component} (h : exec i s = .next t)
    (hne : ¬Same s t c) : c ∈ writes i := by
  by_contra hc
  exact hne (exec_same h hc)

/-! ### Who may write a component: the footprint table read the other way -/

section writers
variable {i : Instr}

theorem writer_of_curBank (h : .curBank ∈ writes i) : ∃ n, i = .setbank n := by
  cases i <;> simp_all

theorem writer_of_name (h : .name ∈ writes i) : (∃ b, i = .clear b) ∨ ∃ x, i = .load x := by
  cases i <;> simp_all

theorem writer_of_bank (h : .bank ∈ writes i) :
    i = .iocyc ∨ (∃ m r, i = .iowrMem m r) ∨ (∃ b a v, i = .bankWrite b a v) ∨
      (∃ b a v, i = .write b a v) ∨ (∃ b, i = .clear b) ∨ ∃ x, i = .load x := by
  cases i <;> simp_all

theorem writer_of_scratch (h : .scratch ∈ writes i) :
    (∃ d, i = .chHexNormalDigit d) ∨ (∃ d, i = .chHexNormalUpper d) ∨
      (∃ d, i = .chHexNormalLower d) ∨ (∃ d, i = .chHexOriginDigit d) ∨
      (∃ d, i = .chHexOriginUpper d) ∨ (∃ d, i = .chHexOriginLower d) ∨
      (∃ c, i = .chBadNormal c) ∨ (∃ c, i = .chBadOrigin c) ∨
      (∃ x, i = .hexDecode x) ∨ i = .save ∨ ∃ x, i = .load x := by
  cases i <;> simp_all

theorem writer_of_arb (h : .arb ∈ writes i) :
    handlerOnly i = true ∨ i = .iocyc ∨ i = .memcyc ∨ (∃ w c, i = .memrd w c) ∨
      (∃ w c, i = .memAbortRdInactive w c) ∨ (∃ r w c, i = .memAbortMreqInactive r w c) ∨
      (∃ m r, i = .iowrMem m r) ∨ (∃ m r, i = .iowrCon m r) ∨ ∃ m r c, i = .ioNowr m r c := by
  cases i <;> simp_all [handlerOnly]

theorem writer_of_pendIo (h : .pendIo ∈ writes i) :
    (∃ m, i = .edgeIo m) ∨ i = .dispatch ∨ i = .iocyc ∨ (∃ m r, i = .iowrMem m r) ∨
      (∃ m r, i = .iowrCon m r) ∨ ∃ m r c, i = .ioNowr m r c := by
  cases i <;> simp_all

theorem writer_of_pendMem (h : .pendMem ∈ writes i) :
    i = .edgeMem ∨ i = .edgeIo true ∨ i = .dispatch ∨ i = .memcyc ∨ (∃ w c, i = .memrd w c) ∨
      (∃ w c, i = .memAbortRdInactive w c) ∨ ∃ r w c, i = .memAbortMreqInactive r w c := by
  cases i <;> simp_all

theorem writer_of_sequencer (h : .sequencer ∈ writes i) :
    i = .dispatch ∨ i = .iret ∨ i = .iocyc ∨ i = .memcyc ∨ (∃ w c, i = .memrd w c) ∨
      (∃ w c, i = .memAbortRdInactive w c) ∨ (∃ r w c, i = .memAbortMreqInactive r w c) ∨
      (∃ m r, i = .iowrMem m r) ∨ (∃ m r, i = .iowrCon m r) ∨ ∃ m r c, i = .ioNowr m r c := by
  cases i <;> simp_all

theorem writer_of_req (h : .req ∈ writes i) : i = .preq ∨ i = .prel := by
  cases i <;> simp_all

theorem writer_of_ack (h : .ack ∈ writes i) : i = .iack ∨ i = .iresume := by
  cases i <;> simp_all

/-- No operation writes the environment's inputs, the schedule or the CPU's latch. -/
theorem not_mem_writes_inputs (i : Instr) :
    .env ∉ writes i ∧ .script ∉ writes i ∧ .cpuLatch ∉ writes i := by
  cases i <;> simp

end writers

/-! ### Latches -/

theorem enterHandler_pendIo {s : State} (h : Source) (hs : s.edge.pendIo = false) :
    (enterHandler h s).edge.pendIo = false := by
  cases h
  · simp [enterHandler_io]
  · simp [enterHandler_mem, hs]

theorem enterHandler_pendMem {s : State} (h : Source) (hs : s.edge.pendMem = false) :
    (enterHandler h s).edge.pendMem = false := by
  cases h
  · simp [enterHandler_io, hs]
  · simp [enterHandler_mem]

theorem dispatch_pendIo {s : State} (hs : s.edge.pendIo = false) :
    (dispatch s).edge.pendIo = false := by
  rcases dispatch_cases s with e | ⟨-, h, u, rfl | rfl, e⟩ <;> rw [e]
  · exact hs
  all_goals exact enterHandler_pendIo h hs

theorem dispatch_pendMem {s : State} (hs : s.edge.pendMem = false) :
    (dispatch s).edge.pendMem = false := by
  rcases dispatch_cases s with e | ⟨-, h, u, rfl | rfl, e⟩ <;> rw [e]
  · exact hs
  all_goals exact enterHandler_pendMem h hs

theorem ioLabel_pendIo (l : IoLabel) (s : State) : (ioLabel l s).edge.pendIo = s.edge.pendIo :=
  touches_ioLabel_bank l s .pendIo (by decide)

theorem memLabel_pendMem (l : MemLabel) (s : State) :
    (memLabel l s).edge.pendMem = s.edge.pendMem :=
  touches_memLabel l s .pendMem (by decide)

theorem ioRun_pendIo {s : State} (o : IoOutcome) (hs : s.edge.pendIo = false) :
    (ioRun o s).edge.pendIo = false :=
  ioRun_induct (P := fun u => u.edge.pendIo = false) o hs (fun _ => enterHandler_pendIo .io hs)
    (fun l u _ hu => (ioLabel_pendIo l u).trans hu)

theorem memRun_pendMem {s : State} (o : MemOutcome) (hs : s.edge.pendMem = false) :
    (memRun o s).edge.pendMem = false :=
  memRun_induct (P := fun u => u.edge.pendMem = false) o hs (fun _ => enterHandler_pendMem .mem hs)
    (fun l u _ hu => (memLabel_pendMem l u).trans hu)

theorem execIocyc_pendIo {s : State} (hs : s.edge.pendIo = false) :
    Ensures (fun t => t.edge.pendIo = false) (execIocyc s) :=
  ensures_iocyc hs (fun _ _ => enterHandler_pendIo .io hs)
    (fun l _ => (ioLabel_pendIo l s).trans hs)

theorem execMemcyc_pendMem {s : State} (hs : s.edge.pendMem = false) :
    Ensures (fun t => t.edge.pendMem = false) (execMemcyc s) :=
  ensures_memcyc hs (fun _ _ => enterHandler_pendMem .mem hs)
    (fun l _ => (memLabel_pendMem l s).trans hs)

/-- The detector's look at a line sets its latch or leaves it. -/
theorem observeIorq_pendIo {s : State} (hs : s.edge.pendIo = true) :
    (observeIorq s).edge.pendIo = true := by
  rw [(observeIorq_spec s).1]; simp [hs]

theorem observeMreq_pendMem {s : State} (hs : s.edge.pendMem = true) :
    (observeMreq s).edge.pendMem = true := by
  rw [(observeMreq_spec s).1]; simp [hs]

theorem execEdgeIo_pendIo {s : State} (m : Bool) (hs : s.edge.pendIo = true) :
    Ensures (fun t => t.edge.pendIo = true) (execEdgeIo m s) := by
  refine .next (observeIorq_pendIo ?_)
  split
  · exact Eq.trans (touches_observeMreq s .pendIo (by decide)) hs
  · exact hs

theorem execEdgeIo_pendMem {s : State} (m : Bool) (hs : s.edge.pendMem = true) :
    Ensures (fun t => t.edge.pendMem = true) (execEdgeIo m s) := by
  refine .next (Eq.trans (touches_observeIorq _ .pendMem (by decide)) ?_)
  split
  · exact observeMreq_pendMem hs
  · exact hs

section latches
variable {i : Instr} {s t : State}

/-- Only the detector sets `pend_io` (R31, R163). -/
theorem pendIo_set_by (h : exec i s = .next t) (hs : s.edge.pendIo = false)
    (ht : t.edge.pendIo = true) : ∃ m, i = .edgeIo m := by
  have hne : ¬t.edge.pendIo = false := by simp [ht]
  rcases writer_of_pendIo (mem_writes_of_ne h fun e => hne (Eq.trans e hs)) with
    he | rfl | rfl | ⟨m, r, rfl⟩ | ⟨m, r, rfl⟩ | ⟨m, r, c, rfl⟩
  · exact he
  · cases h; exact absurd (dispatch_pendIo hs) hne
  · exact absurd (execIocyc_pendIo hs t h) hne
  all_goals cases h; exact absurd (ioRun_pendIo _ hs) hne

/-- Only the detector sets `pend_mem` (R31, R163). -/
theorem pendMem_set_by (h : exec i s = .next t) (hs : s.edge.pendMem = false)
    (ht : t.edge.pendMem = true) : i = .edgeMem ∨ i = .edgeIo true := by
  have hne : ¬t.edge.pendMem = false := by simp [ht]
  rcases writer_of_pendMem (mem_writes_of_ne h fun e => hne (Eq.trans e hs)) with
    he | he | rfl | rfl | ⟨w, c, rfl⟩ | ⟨w, c, rfl⟩ | ⟨r, w, c, rfl⟩
  · exact .inl he
  · exact .inr he
  · cases h; exact absurd (dispatch_pendMem hs) hne
  · exact absurd (execMemcyc_pendMem hs t h) hne
  all_goals cases h; exact absurd (memRun_pendMem _ hs) hne

/-- `pend_io` is cleared where its handler is entered (R168). -/
theorem pendIo_cleared_by (h : exec i s = .next t) (hs : s.edge.pendIo = true)
    (ht : t.edge.pendIo = false) :
    i = .dispatch ∨ i = .iocyc ∨ (∃ m r, i = .iowrMem m r) ∨ (∃ m r, i = .iowrCon m r) ∨
      ∃ m r c, i = .ioNowr m r c := by
  have hne : ¬t.edge.pendIo = true := by simp [ht]
  rcases writer_of_pendIo (mem_writes_of_ne h fun e => hne (Eq.trans e hs)) with ⟨m, rfl⟩ | he
  · exact absurd (execEdgeIo_pendIo m hs t h) hne
  · exact he

/-- `pend_mem` is cleared where its handler is entered (R168). -/
theorem pendMem_cleared_by (h : exec i s = .next t) (hs : s.edge.pendMem = true)
    (ht : t.edge.pendMem = false) :
    i = .dispatch ∨ i = .memcyc ∨ (∃ w c, i = .memrd w c) ∨
      (∃ w c, i = .memAbortRdInactive w c) ∨ ∃ r w c, i = .memAbortMreqInactive r w c := by
  have hne : ¬t.edge.pendMem = true := by simp [ht]
  rcases writer_of_pendMem (mem_writes_of_ne h fun e => hne (Eq.trans e hs)) with rfl | rfl | he
  · cases h; exact absurd (observeMreq_pendMem hs) hne
  · exact absurd (execEdgeIo_pendMem true hs t h) hne
  · exact he

end latches

/-- Settles O57: each clause is the footprint table read for one component; the direction of a latch's
change is told apart by what the detector and an entry do to it. -/
theorem stateIsWrittenByItsOwnersOnly : Obligations.StateIsWrittenByItsOwnersOnly := by
  unfold Obligations.StateIsWrittenByItsOwnersOnly
  intro s t i h
  obtain ⟨henv, hscript, hlatch⟩ := not_mem_writes_inputs i
  refine ⟨exec_same h henv, exec_same h hscript, exec_same h hlatch, ?curBank, ?name, ?bank, ?scratch,
    ?arb, pendIo_set_by h, pendMem_set_by h, pendIo_cleared_by h, pendMem_cleared_by h⟩
  case curBank => exact fun hne => writer_of_curBank (mem_writes_of_ne h hne)
  case name => exact fun hne => writer_of_name (mem_writes_of_ne h hne)
  case bank => exact fun hne => writer_of_bank (mem_writes_of_ne h fun e => hne (bankByte_congr e))
  case scratch =>
    exact fun hne => writer_of_scratch (mem_writes_of_ne h fun e => hne (scratchByte_congr e.1 e.2))
  case arb => exact fun hne => writer_of_arb (mem_writes_of_ne h hne)

/-! ### One turn of the schedule -/

/-- No agent's own control state selects a micro-operation: the handlers perform those (R89). -/
theorem handlerOnly_of_agentNext {a : Agent} {s : State} {i : Instr}
    (h : agentNext a s = some i) : handlerOnly i = false := by
  cases a with
  | irq =>
    simp only [agentNext, irqNext] at h
    split at h
    · cases h; rfl
    · cases h; rfl
    · split at h <;> cases h; rfl
  | busIdle =>
    simp only [agentNext, busIdleNext] at h
    split at h
    · cases h
    · cases h
    · split at h <;> cases h <;> rfl
  | ui =>
    simp only [agentNext, uiNext] at h
    split at h <;> cases h <;> rfl

/-- A character is no micro-operation. -/
theorem handlerOnly_decodeChar (p : PState) (c : Byte) : handlerOnly (decodeChar p c) = false := by
  have hnormal : handlerOnly (decodeHexNormal c) = false := by
    unfold decodeHexNormal
    split
    · rfl
    · split <;> rfl
  have horigin : handlerOnly (decodeHexOrigin c) = false := by
    unfold decodeHexOrigin
    split
    · rfl
    · split <;> rfl
  unfold decodeChar
  split
  case h_6 => exact hnormal
  case h_7 => exact horigin
  case h_1 | h_4 | h_5 => split <;> rfl
  all_goals rfl

/-- The parser state matters to a character's line only (R131). -/
theorem decodeOp_pstate (p q : PState) {sel : Nat} (args : List Byte) (h : sel ≠ 4) :
    decodeOp p sel args = decodeOp q sel args := by
  unfold decodeOp
  split
  case h_4 => contradiction
  all_goals rfl

/-- A line that names a micro-operation names it in every parser state. -/
theorem decode_normal_of_handlerOnly {p : PState} {bytes : List Byte} {i : Instr}
    (h : decode p bytes = .ok i) (hi : handlerOnly i = true) : decode .normal bytes = .ok i := by
  cases bytes with
  | nil => cases h
  | cons sel args =>
    simp only [decode] at h ⊢
    by_cases h4 : sel.toNat = 4
    · rw [h4] at h
      simp only [decodeOp, decodeByte] at h
      split at h
      · cases h; rw [handlerOnly_decodeChar] at hi; cases hi
      · cases h
    · rwa [decodeOp_pstate .normal p args h4]

/-- What a step does once its turn is off the script: it passes, performs an operation (no
micro-operation, if the schedule leaves those to the handlers), or is a turn of the environment. -/
theorem step_cases {s t : State} (h : step s = .next t) :
    ∃ u, u = setScript s.book.script.tail s ∧
      (t = u ∨
        (∃ i, exec i u = .next t ∧ (scriptOk s.book.script = true → handlerOnly i = false)) ∨
        (∃ c, t = envStep c u) ∨ t = cpuSampleStep u ∨ ∃ k, t = storageStep k u) := by
  have agent {a : Agent} {u : State} (h : runAgent a u = .next t) :
      t = u ∨ ∃ i, exec i u = .next t ∧ handlerOnly i = false := by
    unfold runAgent at h
    split at h
    · next i hi => exact .inr ⟨i, h, handlerOnly_of_agentNext hi⟩
    · cases h; exact .inl rfl
  refine ⟨_, rfl, ?_⟩
  unfold step at h
  split at h
  · next hs =>
    have hu : setScript s.book.script.tail s = s := by rw [hs, List.tail_nil, ← hs]; rfl
    rw [hu]
    exact (agent h).imp id fun ⟨i, he, hi⟩ => .inl ⟨i, he, fun _ => hi⟩
  · next c rest hs => cases h; rw [hs]; exact .inr (.inr (.inl ⟨c, rfl⟩))
  · next rest hs => cases h; rw [hs]; exact .inr (.inr (.inr (.inl rfl)))
  · next k rest hs => cases h; rw [hs]; exact .inr (.inr (.inr (.inr ⟨k, rfl⟩)))
  · next a rest hs =>
    rw [hs]
    exact (agent h).imp id fun ⟨i, he, hi⟩ => .inl ⟨i, he, fun _ => hi⟩
  · next bytes rest hs =>
    rw [hs]
    unfold runLine at h
    split at h
    · next i hd =>
      refine .inr (.inl ⟨i, h, fun hok => ?_⟩)
      have hturn : turnOk (.line bytes) = true := by
        rw [scriptOk, List.all_cons, Bool.and_eq_true] at hok
        exact hok.1
      by_contra hi
      have hi : handlerOnly i = true := by simpa using hi
      simp [turnOk, decode_normal_of_handlerOnly hd hi, hi] at hturn
    · next r hd =>
      unfold onReject at h
      split at h <;> cases h
      exact .inl rfl

/-- What an ENV step may write: the inputs, and what the detector and the history make of them. -/
theorem touches_envStep (c : EnvChange) (s : State) :
    Touches [.env, .pendIo, .pendMem, .prevIorq, .prevMreq, .hist] s (envStep c s) := by
  have henv : Touches [.env] s { s with env := changedInputs c s.env } := by
    intro c hc; cases c <;> simp_all [Same]
  exact ((henv.mono.then (touches_noteContention s _)).then (touches_observeMreq _)).then
    (touches_observeIorq _)

theorem touches_cpuSampleStep (s : State) : Touches [.draws, .cpuLatch] s (cpuSampleStep s) := by
  have hbus : Touches [.draws] s (cpuBus s).2 := by
    unfold cpuBus
    split
    · exact .refl
    · exact .refl
    all_goals exact touches_draw8 s
  have hlatch (v : Byte) (u : State) : Touches [.cpuLatch] u { u with book.cpuLatch := v } := by
    intro c hc; cases c <;> simp_all [Same]
  exact hbus.mono.then (hlatch _ _)

theorem touches_storageStep (k : Option Nat) (s : State) :
    Touches [.storage] s (storageStep k s) := by
  intro c hc; cases c <;> simp_all [Same, storageStep]

/-! ### The pause flags (R153 to R158) -/

section pause
variable {s t : State}

/-- `PREQ` passes while the UI is inside an operation, else it sets the request. -/
theorem execPreq_cases (s : State) :
    Ensures (fun t => t = s ∨ s.host.activity = .between ∧ t.pause.req = true) (execPreq s) := by
  refine ensures_whenFree (.inl rfl) fun hb => ?_
  split
  · exact .refused _
  · exact .next (.inr ⟨hb, rfl⟩)

/-- `PREL` passes while the UI is inside an operation, else it clears the request. -/
theorem execPrel_cases (s : State) :
    Ensures (fun t => t = s ∨ s.host.activity = .between ∧ t.pause.req = false) (execPrel s) := by
  exact ensures_whenFree (.inl rfl) fun hb => .next (.inr ⟨hb, rfl⟩)

/-- `IACK` passes, or acknowledges where the idle loop stands at it. -/
theorem execIack_cases (s : State) :
    Ensures (fun t => t = s ∨ (s.sequencer = .idle ∧ s.idle = .iack) ∧ t.pause.ack = true)
      (execIack s) := by
  exact ensures_idleRow (.inl rfl) fun hq hl => .inr ⟨⟨hq, hl⟩, rfl⟩

/-- `IRESUME` passes, or withdraws the acknowledgment where the idle loop stands at it. -/
theorem execIresume_cases (s : State) :
    Ensures (fun t => t = s ∨ (s.sequencer = .idle ∧ s.idle = .iresume) ∧ t.pause.ack = false)
      (execIresume s) := by
  exact ensures_idleRow (.inl rfl) fun hq hl => .inr ⟨⟨hq, hl⟩, rfl⟩

/-- Who sets `pause_req`, and where its agent stood (R34, R153). -/
theorem req_set_by {i : Instr} (h : exec i s = .next t) (hs : s.pause.req = false)
    (ht : t.pause.req = true) : i = .preq ∧ s.host.activity = .between := by
  have hne : t ≠ s := by rintro rfl; simp [hs] at ht
  rcases writer_of_req (mem_writes_of_ne h fun e => by simp [Same, hs, ht] at e) with rfl | rfl
  · exact ⟨rfl, ((execPreq_cases s t h).resolve_left hne).1⟩
  · simp [((execPrel_cases s t h).resolve_left hne).2] at ht

/-- Who clears `pause_req`, and where its agent stood (R34, R155). -/
theorem req_cleared_by {i : Instr} (h : exec i s = .next t) (hs : s.pause.req = true)
    (ht : t.pause.req = false) : i = .prel ∧ s.host.activity = .between := by
  have hne : t ≠ s := by rintro rfl; simp [hs] at ht
  rcases writer_of_req (mem_writes_of_ne h fun e => by simp [Same, hs, ht] at e) with rfl | rfl
  · simp [((execPreq_cases s t h).resolve_left hne).2] at ht
  · exact ⟨rfl, ((execPrel_cases s t h).resolve_left hne).1⟩

/-- Who sets `pause_ack`, and where its agent stood (R35, R157). -/
theorem ack_set_by {i : Instr} (h : exec i s = .next t) (hs : s.pause.ack = false)
    (ht : t.pause.ack = true) : i = .iack ∧ s.sequencer = .idle ∧ s.idle = .iack := by
  have hne : t ≠ s := by rintro rfl; simp [hs] at ht
  rcases writer_of_ack (mem_writes_of_ne h fun e => by simp [Same, hs, ht] at e) with rfl | rfl
  · exact ⟨rfl, ((execIack_cases s t h).resolve_left hne).1⟩
  · simp [((execIresume_cases s t h).resolve_left hne).2] at ht

/-- Who clears `pause_ack`, and where its agent stood (R35, R158). -/
theorem ack_cleared_by {i : Instr} (h : exec i s = .next t) (hs : s.pause.ack = true)
    (ht : t.pause.ack = false) : i = .iresume ∧ s.sequencer = .idle ∧ s.idle = .iresume := by
  have hne : t ≠ s := by rintro rfl; simp [hs] at ht
  rcases writer_of_ack (mem_writes_of_ne h fun e => by simp [Same, hs, ht] at e) with rfl | rfl
  · simp [((execIack_cases s t h).resolve_left hne).2] at ht
  · exact ⟨rfl, ((execIresume_cases s t h).resolve_left hne).1⟩

/-- A change of `pause_ack` is the idle loop's. -/
theorem exec_ack_ne {i : Instr} (h : exec i s = .next t) (hne : t.pause.ack ≠ s.pause.ack) :
    s.sequencer = .idle ∧ (s.idle = .iack ∨ s.idle = .iresume) := by
  cases hs : s.pause.ack with
  | false =>
    obtain ⟨-, hq, hl⟩ := ack_set_by h hs (by simpa [hs] using hne)
    exact ⟨hq, .inl hl⟩
  | true =>
    obtain ⟨-, hq, hl⟩ := ack_cleared_by h hs (by simpa [hs] using hne)
    exact ⟨hq, .inr hl⟩

theorem step_ack_ne (h : step s = .next t) (hne : t.pause.ack ≠ s.pause.ack) :
    s.sequencer = .idle ∧ (s.idle = .iack ∨ s.idle = .iresume) := by
  obtain ⟨u, rfl, rfl | ⟨i, he, -⟩ | ⟨c, rfl⟩ | rfl | ⟨k, rfl⟩⟩ := step_cases h
  · exact absurd rfl hne
  · exact (exec_ack_ne he hne :)
  · exact absurd (touches_envStep c _ .ack (by decide)) hne
  · exact absurd (touches_cpuSampleStep _ .ack (by decide)) hne
  · exact absurd rfl hne

end pause

/-- Settles O56: the footprint table names the two writers of each flag, and each writer passes unless
its agent stands at it. -/
theorem pauseFlagsHaveOneWriterEach : Obligations.PauseFlagsHaveOneWriterEach := by
  unfold Obligations.PauseFlagsHaveOneWriterEach
  exact ⟨fun _ _ _ h => ⟨req_set_by h, req_cleared_by h, ack_set_by h, ack_cleared_by h⟩,
    fun _ _ => step_ack_ne⟩

/-! ### Handlers run to completion (R30) -/

/-- Each step of the I/O handler brings it nearer its end. -/
theorem stepsLeft_ioLabel {l : IoLabel} {s : State} :
    stepsLeft (ioLabel l s).sequencer < stepsLeft (.io l) := by
  cases l with
  | io3 => simp only [ioLabel]; split <;> simp [stepsLeft]
  | io3bc => simp [ioLabel, stepsLeft]
  | _ => simp [ioLabel, stepsLeft]

/-- Each step of the memory handler brings it nearer its end. -/
theorem stepsLeft_memLabel {l : MemLabel} {s : State} :
    stepsLeft (memLabel l s).sequencer < stepsLeft (.mem l) := by
  cases l with
  | m2 => simp only [memLabel]; split <;> simp [stepsLeft]
  | _ => simp [memLabel, stepsLeft]

/-- While a handler runs there is no dispatch (R166). -/
theorem dispatch_of_busy {s : State} (h : s.sequencer ≠ .idle) : dispatch s = s :=
  (dispatch_cases s).resolve_right fun hd => h hd.1

/-- Settles O32: a measure falls at every label, and the other writers of the sequencer pass while a
handler runs. -/
theorem handlersRunToCompletionWithoutNesting :
    Obligations.HandlersRunToCompletionWithoutNesting := by
  unfold Obligations.HandlersRunToCompletionWithoutNesting
  refine ⟨fun s l hq => ⟨ioLabel l s, ?_, ?_, ?_⟩, fun s l hq => ⟨memLabel l s, ?_, ?_, ?_⟩, ?_⟩
  · simp only [exec, execIocyc, hq]
  · rw [hq]; exact stepsLeft_ioLabel
  · rw [hq]; cases l <;> decide
  · simp only [exec, execMemcyc, hq]
  · rw [hq]; exact stepsLeft_memLabel
  · rw [hq]; cases l <;> decide
  · intro s t i hbusy hio hmem hiret h
    by_contra hne
    rcases writer_of_sequencer (mem_writes_of_ne h hne) with rfl | hi | hi | hi | ⟨w, c, rfl⟩ |
      ⟨w, c, rfl⟩ | ⟨r, w, c, rfl⟩ | ⟨m, r, rfl⟩ | ⟨m, r, rfl⟩ | ⟨m, r, c, rfl⟩
    · cases h; exact hne (congrArg _ (dispatch_of_busy hbusy))
    · exact hiret hi
    · exact hio hi
    · exact hmem hi
    iterate 3 cases h; exact hne (congrArg _ (memRun_of_busy _ hbusy))
    all_goals cases h; exact hne (congrArg _ (ioRun_of_busy _ hbusy))

/-! ### The reset state (R43) -/

/-- Settles O58: each value is the reset state's own. -/
theorem resetState : Obligations.ResetState := by
  unfold Obligations.ResetState
  refine ⟨rfl, rfl, rfl, rfl, rfl, rfl, rfl, rfl, rfl, rfl, rfl, rfl, rfl, fun _ _ => rfl,
    fun _ => rfl, rfl, rfl, ?quiescent⟩
  exact ⟨rfl, rfl, rfl, rfl, rfl, rfl⟩

/-- Settles O59: each part of the invariant computes at reset. -/
theorem resetHasTheInvariant : Obligations.ResetHasTheInvariant := by
  unfold Obligations.ResetHasTheInvariant
  exact ⟨rfl, rfl, rfl, rfl, rfl, rfl⟩

/-! ### The arbiter's lines (R100) -/

/-- The arbiter is as the sequencer's place wants it. -/
def LinesFit (s : State) : Prop := arbiterFits s.sequencer s.arb = true

theorem LinesFit.congr {s t : State} (h : LinesFit s) (hq : Same s t .sequencer)
    (ha : Same s t .arb) : LinesFit t := by
  have hq : t.sequencer = s.sequencer := hq
  have ha : t.arb = s.arb := ha
  rw [LinesFit, hq, ha]
  exact h

/-- A handler finds the lines at rest, as every exit left them. -/
theorem linesFit_enterHandler {s : State} (h : Source) (hq : s.sequencer = .idle)
    (hs : LinesFit s) : LinesFit (enterHandler h s) := by
  rw [LinesFit, hq] at hs
  cases h
  · rw [enterHandler_io]; exact hs
  · rw [enterHandler_mem]; exact hs

theorem linesFit_ioLabel {l : IoLabel} {s : State} (hq : s.sequencer = .io l) (hs : LinesFit s) :
    LinesFit (ioLabel l s) := by
  rw [LinesFit, hq] at hs
  cases l with
  | io3 => simp only [LinesFit, ioLabel]; split <;> simp_all [arbiterFits]
  | io3bc => simp only [LinesFit, ioLabel]; split <;> simp_all [arbiterFits]
  | io4 =>
    rcases Bool.or_eq_true_iff.mp hs with hs | hs <;>
      simp_all [LinesFit, ioLabel, arbiterFits, arbiterSamples, arbiterAtRest]
  | _ => simp_all [LinesFit, ioLabel, arbiterFits, arbiterSamples, arbiterAtRest]

theorem linesFit_memLabel {l : MemLabel} {s : State} (hq : s.sequencer = .mem l)
    (hs : LinesFit s) : LinesFit (memLabel l s) := by
  rw [LinesFit, hq] at hs
  cases l with
  | m2 => simp only [LinesFit, memLabel]; split <;> simp_all [arbiterFits]
  | _ => simp_all [LinesFit, memLabel, arbiterFits, arbiterSamples, arbiterAtRest]

theorem linesFit_dispatch {s : State} (hs : LinesFit s) : LinesFit (dispatch s) := by
  rcases dispatch_cases s with e | ⟨hq, h, u, rfl | rfl, e⟩ <;> rw [e]
  · exact hs
  all_goals exact linesFit_enterHandler h hq hs

theorem linesFit_ioRun {s : State} (o : IoOutcome) (hs : LinesFit s) : LinesFit (ioRun o s) :=
  ioRun_induct o hs (fun hq => linesFit_enterHandler .io hq hs) fun _ _ => linesFit_ioLabel

theorem linesFit_memRun {s : State} (o : MemOutcome) (hs : LinesFit s) : LinesFit (memRun o s) :=
  memRun_induct o hs (fun hq => linesFit_enterHandler .mem hq hs) fun _ _ => linesFit_memLabel

/-- Every operation but a lone micro-operation or return keeps the lines as the sequencer wants them. -/
theorem exec_linesFit {i : Instr} {s : State} (hi : handlerOnly i = false) (hs : LinesFit s) :
    Ensures LinesFit (exec i s) := by
  cases i with
  | dispatch => exact .next (linesFit_dispatch hs)
  | iocyc =>
    exact ensures_iocyc hs (fun hq _ => linesFit_enterHandler .io hq hs)
      fun _ hq => linesFit_ioLabel hq hs
  | memcyc =>
    exact ensures_memcyc hs (fun hq _ => linesFit_enterHandler .mem hq hs)
      fun _ hq => linesFit_memLabel hq hs
  | memrd | memAbortRdInactive | memAbortMreqInactive => exact .next (linesFit_memRun _ hs)
  | iowrMem | iowrCon | ioNowr => exact .next (linesFit_ioRun _ hs)
  | selpLowAddrIn | selpHighAddrIn | selpDataIn | selpDataOut | neut | settle | shin | shout | samp
  | tst | iret => cases hi
  | _ => exact fun t ht => hs.congr (exec_same ht (by simp)) (exec_same ht (by simp))

/-! ### The detector's levels (R32) -/

theorem edgesSeen_congr {s t : State} (hs : edgesSeen s = true) (he : Same s t .env)
    (hi : Same s t .prevIorq) (hm : Same s t .prevMreq) : edgesSeen t = true := by
  have he : t.env = s.env := he
  have hi : t.edge.prevIorq = s.edge.prevIorq := hi
  have hm : t.edge.prevMreq = s.edge.prevMreq := hm
  rw [edgesSeen, he, hi, hm]
  exact hs

/-- After the detector's look at both lines it has seen the present levels. -/
theorem edgesSeen_observe (s : State) : edgesSeen (observeIorq (observeMreq s)) = true := by
  simp [edgesSeen, observeIorq_spec, observeMreq_spec]

/-- A look at one line keeps what was seen of the other. -/
theorem edgesSeen_observeIorq {s : State} (hs : edgesSeen s = true) :
    edgesSeen (observeIorq s) = true := by
  simp_all [edgesSeen, observeIorq_spec]

theorem edgesSeen_observeMreq {s : State} (hs : edgesSeen s = true) :
    edgesSeen (observeMreq s) = true := by
  simp_all [edgesSeen, observeMreq_spec]

theorem exec_edgesSeen {i : Instr} {s : State} (hs : edgesSeen s = true) :
    Ensures (fun t => edgesSeen t = true) (exec i s) := by
  cases i with
  | edgeIo m =>
    cases m with
    | false => exact .next (edgesSeen_observeIorq hs)
    | true => exact .next (edgesSeen_observe s)
  | edgeMem => exact .next (edgesSeen_observeMreq hs)
  | _ =>
    exact fun t ht => edgesSeen_congr hs (exec_same ht (by simp)) (exec_same ht (by simp))
      (exec_same ht (by simp))

/-! ### The acknowledgment (R157, R158) -/

theorem ackFits_congr {s t : State} (hs : ackFits s = true) (ha : Same s t .ack)
    (hi : Same s t .idle) : ackFits t = true := by
  have ha : t.pause.ack = s.pause.ack := ha
  have hi : t.idle = s.idle := hi
  rw [ackFits, ha, hi]
  exact hs

theorem exec_ackFits {i : Instr} {s : State} (hs : ackFits s = true) :
    Ensures (fun t => ackFits t = true) (exec i s) := by
  cases i with
  | ipoll =>
    dsimp only [exec, execIpoll]
    refine ensures_idleRow hs fun _ hl => ?_
    rw [ackFits, hl] at hs
    split <;> exact hs
  | iack =>
    dsimp only [exec, execIack]
    exact ensures_idleRow hs fun _ _ => rfl
  | ispin =>
    dsimp only [exec, execIspin]
    refine ensures_idleRow hs fun _ hl => ?_
    rw [ackFits, hl] at hs
    split <;> exact hs
  | iresume =>
    dsimp only [exec, execIresume]
    exact ensures_idleRow hs fun _ _ => rfl
  | _ => exact fun t ht => ackFits_congr hs (exec_same ht (by simp)) (exec_same ht (by simp))

/-! ### The memories and the decoder (R37, R40, R130) -/

/-- The ranges of the decoder's variables, whether its decode goes on or not. -/
def DecoderRanges (d : Decoder) : Prop :=
  d.cursor ≤ 32768 ∧ d.ocnt ≤ 4 ∧ 1 ≤ d.line ∧ risingFrom 0 d.written = true ∧
    ∀ i ∈ d.written, i < 32768

/-- While the decode goes on, digits are pending only in the state that takes them (R136, R138). -/
def PendingFits (d : Decoder) : Prop :=
  d.status = .running →
    (d.pstate = .normal ∨ d.nib = none) ∧ (d.pstate = .inOrigin → d.ocnt ≤ 3)

theorem decoderWf_iff (d : Decoder) : decoderWf d = true ↔ DecoderRanges d ∧ PendingFits d := by
  have hpending : (d.status != .running || ((d.pstate == .normal || d.nib.isNone) &&
      (d.pstate != .inOrigin || decide (d.ocnt ≤ 3)))) = true ↔ PendingFits d := by
    simp only [PendingFits, Bool.or_eq_true, Bool.and_eq_true, bne_iff_ne, beq_iff_eq,
      Option.isNone_iff_eq_none, decide_eq_true_eq, imp_iff_not_or, ne_eq]
  rw [decoderWf, Bool.and_eq_true, hpending]
  simp only [DecoderRanges, Bool.and_eq_true, decide_eq_true_eq, List.all_eq_true, and_assoc]
  rfl

/-- The host's data: the memories' form and the decoder's ranges. -/
def HostWf (s : State) : Prop := storeWf s.store = true ∧ DecoderRanges s.host.dec ∧
  PendingFits s.host.dec

theorem hostWf_iff (s : State) :
    HostWf s ↔ storeWf s.store = true ∧ decoderWf s.host.dec = true := by
  rw [HostWf, decoderWf_iff]

section hostWf
variable {s t : State}

theorem HostWf.congr (h : HostWf s) (hb : Same s t .bank) (hs : Same s t .scratch)
    (hd : Same s t .dec) : HostWf t := by
  have hb : t.store.bank = s.store.bank := hb
  have hd : t.host.dec = s.host.dec := hd
  obtain ⟨hs, -⟩ := hs
  rw [HostWf, storeWf, hb, hs, hd]
  exact h

/-- A step that writes neither memory nor the decoder keeps their form. -/
theorem HostWf.touches {cs : List Component} (h : HostWf s) (ht : Touches cs s t)
    (hb : .bank ∉ cs := by decide) (hs : .scratch ∉ cs := by decide)
    (hd : .dec ∉ cs := by decide) : HostWf t :=
  h.congr (ht _ hb) (ht _ hs) (ht _ hd)

theorem HostWf.setBankByte (h : HostWf s) (b : BankNumber) (i : BankIndex) (v : Byte) :
    HostWf (setBankByte b i v s) :=
  ⟨storeWf_setBankByte b i v h.1, h.2⟩

theorem HostWf.setScratchByte (h : HostWf s) {i : Nat} (v : Byte) (hi : i < 32768) :
    HostWf (setScratchByte i v s) :=
  ⟨storeWf_setScratchByte v hi h.1, h.2⟩

theorem HostWf.bankWrite (h : HostWf s) (b : BankNumber) (a : Addr) (v : Byte) :
    HostWf (bankWrite b a v s) :=
  (h.setBankByte b _ v).touches (touches_emit _ _)

theorem hostWf_setDec (hs : storeWf s.store = true) {d : Decoder} (hr : DecoderRanges d)
    (hp : PendingFits d) : HostWf (setDec d s) := ⟨hs, hr, hp⟩

/-- After a `DecodeError` no digit is pending in a decode that goes on. -/
theorem hostWf_raiseDecodeError (hs : storeWf s.store = true) (hr : DecoderRanges s.host.dec) :
    HostWf (raiseDecodeError s) :=
  ⟨storeWf_forgetScratch hs, hr, fun hrun => by cases hrun⟩

theorem hostWf_lineEnd (lf : Bool) (h : HostWf s) : Ensures HostWf (lineEnd lf s) := by
  obtain ⟨hs, ⟨hcur, hocnt, hline, hwritten⟩, -⟩ := h
  refine ensures_unlessSplit fun _ => hostWf_setDec hs ⟨hcur, hocnt, ?_, hwritten⟩ fun _ => ?_
  · exact Nat.le_add_right_of_le hline
  · exact ⟨.inl rfl, nofun⟩

/-- A decoder without a split unit has no first digit pending. -/
theorem nib_of_not_splitPending {d : Decoder} (h : splitPending d = false) : d.nib = none := by
  simpa [splitPending] using (Bool.or_eq_false_iff.mp h).1

theorem hostWf_hashMark (h : HostWf s) : Ensures HostWf (hashMark s) := by
  have act : Ensures HostWf
      (unlessSplit s fun s => setDec { s.host.dec with pstate := .inComment } s) :=
    ensures_unlessSplit fun hsplit =>
      have hnib := nib_of_not_splitPending hsplit
      hostWf_setDec h.1 h.2.1 fun _ => ⟨.inr hnib, nofun⟩
  unfold hashMark
  split
  · exact .next h
  all_goals exact act

theorem hostWf_originMark (h : HostWf s) : Ensures HostWf (originMark s) := by
  have act : Ensures HostWf (unlessSplit s fun s =>
      setDec { s.host.dec with pstate := .inOrigin, oacc := 0, ocnt := 0 } s) :=
    ensures_unlessSplit fun hsplit =>
      have ⟨hs, ⟨hcur, _, hrest⟩, _⟩ := h
      have hnib := nib_of_not_splitPending hsplit
      hostWf_setDec hs ⟨hcur, Nat.zero_le 4, hrest⟩ fun _ => ⟨.inr hnib, fun _ => Nat.zero_le 3⟩
  unfold originMark
  split
  · exact .next h
  all_goals exact act

theorem hostWf_separator (h : HostWf s) : Ensures HostWf (separator s) := by
  unfold separator
  split
  · exact .next h
  all_goals exact ensures_unlessSplit fun _ => h

theorem hostWf_storeByte (v : Byte) (h : HostWf s) : HostWf (storeByte v s) := by
  rcases storeByte_cases v s with ⟨hlt, e⟩ | ⟨-, e⟩ <;> rw [e]
  · obtain ⟨hs, ⟨-, hocnt, hline, hrise, hlist⟩, hp⟩ := h
    refine hostWf_setDec (storeWf_setScratchByte v hlt hs) ⟨hlt, hocnt, hline, ?_, ?_⟩ hp
    · exact risingFrom_insertOffset (Nat.zero_le _) hrise
    · intro i hi
      rcases mem_insertOffset.mp hi with rfl | hi
      · exact hlt
      · exact hlist i hi
  · exact hostWf_raiseDecodeError h.1 h.2.1

theorem hostWf_dataDigit (d : BitVec 4) (hn : s.host.dec.pstate = .normal) (h : HostWf s) :
    HostWf (dataDigit d s) := by
  obtain ⟨hs, hr, -⟩ := h
  have hset (n : Option (BitVec 4)) : HostWf (setDec { s.host.dec with nib := n } s) :=
    hostWf_setDec hs hr fun _ => ⟨.inl hn, fun ho => by simp [hn] at ho⟩
  unfold dataDigit
  split
  · exact hset _
  · exact hostWf_storeByte _ (hset none)

/-- An origin moves the cursor inside the buffer, or is an error (R139). -/
theorem applyOrigin_cursor (o : BitVec 16) (s : State) :
    (∃ c, c ≤ 32768 ∧ applyOrigin o s = setDec { s.host.dec with cursor := c } s) ∨
      applyOrigin o s = raiseDecodeError s := by
  rcases applyOrigin_cases o s with ⟨-, hle, e⟩ | ⟨-, e⟩
  · exact .inl ⟨_, by omega, e⟩
  · exact .inr e

/-- The fourth digit of an origin ends the origin state or the decode (R138, R139). -/
theorem hostWf_leaveOrigin_applyOrigin (o : BitVec 16) (hs : storeWf s.store = true)
    (hr : DecoderRanges s.host.dec) : HostWf (leaveOrigin (applyOrigin o s)) := by
  unfold leaveOrigin
  rcases applyOrigin_cursor o s with ⟨c, hc, e⟩ | e <;> rw [e]
  · split
    · exact hostWf_setDec hs ⟨hc, hr.2⟩ fun _ => ⟨.inl rfl, nofun⟩
    · next hrun =>
      exact hostWf_setDec hs ⟨hc, hr.2⟩ fun h => absurd (by simpa [decodeRunning] using h) hrun
  · have hfailed : decodeRunning (raiseDecodeError s) = false := rfl
    rw [if_neg (by simp [hfailed])]
    exact hostWf_raiseDecodeError hs hr

theorem hostWf_originDigitAct (d : BitVec 4) (hrun : decodeRunning s = true)
    (ho : s.host.dec.pstate = .inOrigin) (h : HostWf s) : HostWf (originDigitAct d s) := by
  obtain ⟨hs, ⟨hcur, -, hrest⟩, hp⟩ := h
  obtain ⟨hnib, hocnt⟩ := hp (by simpa [decodeRunning] using hrun)
  have hle := hocnt ho
  have hr' : DecoderRanges { s.host.dec with
      oacc := originDigit s.host.dec.oacc d, ocnt := s.host.dec.ocnt + 1 } :=
    ⟨hcur, Nat.succ_le_succ hle, hrest⟩
  unfold originDigitAct
  simp only
  split
  · exact hostWf_leaveOrigin_applyOrigin _ hs hr'
  · next hne => exact hostWf_setDec hs hr' fun _ => ⟨hnib, fun _ => by simp only; omega⟩

theorem hostWf_charAct (c : Byte) (hrun : decodeRunning s = true) (h : HostWf s) :
    Ensures HostWf (charAct c s) := by
  unfold charAct
  split
  · exact hostWf_lineEnd _ h
  iterate 5 exact .next h
  iterate 2 exact hostWf_hashMark h
  iterate 2 exact hostWf_originMark h
  iterate 2 exact hostWf_separator h
  · next hn => exact .next (hostWf_dataDigit _ hn h)
  · next ho => exact .next (hostWf_originDigitAct _ hrun ho h)
  all_goals exact .next (hostWf_raiseDecodeError h.1 h.2.1)

theorem hostWf_readChar (c : Byte) (u : UiActivity) (hrun : decodeRunning s = true)
    (h : HostWf s) : Ensures HostWf (readChar c u s) :=
  ensures_readChar (fun _ _ hw => hw) (hostWf_charAct c hrun h)

theorem hostWf_decodeStep (rest : List Byte) (h : HostWf s) :
    Ensures HostWf (decodeStep rest s) := by
  refine ensures_whileDecoding h fun hrun => ?_
  split
  · exact ensures_unlessSplit fun _ => h
  · exact hostWf_readChar _ _ hrun h

theorem hostWf_fetchStep (rest : List Byte) (n : Nat) (h : HostWf s) :
    Ensures HostWf (fetchStep rest n s) := by
  refine ensures_whileDecoding h fun hrun => ?_
  split
  · exact .next h
  · split
    · exact ensures_unlessSplit fun _ => h
    · exact hostWf_readChar _ _ hrun h

theorem decoderRanges_initial : DecoderRanges Decoder.initial := by
  simp [DecoderRanges, Decoder.initial, risingFrom]

theorem hostWf_beginDecode (op : Instr) (u : UiActivity) (h : HostWf s) :
    HostWf (setActivity u (beginDecode (beginHost op s))) :=
  ⟨h.1, decoderRanges_initial, fun _ => ⟨.inl rfl, nofun⟩⟩

theorem hostWf_clearStep (b : BankNumber) (i : Nat) (h : HostWf s) : HostWf (clearStep b i s) := by
  unfold clearStep
  split
  · exact (h.setBankByte _ _ _).touches (touches_setActivity _ _)
  · exact (h.touches (touches_setName _ _ _)).touches (touches_setActivity _ _)

theorem hostWf_saveStep (b : BankNumber) (a : Nat) (h : HostWf s) : HostWf (saveStep b a s) := by
  unfold saveStep
  split
  · next ha => exact (h.setScratchByte _ ha).touches (touches_setActivity _ _)
  · exact h.touches (touches_encodeStep _ _ _)

theorem hostWf_loadStep (b : BankNumber) (i : Nat) (h : HostWf s) : HostWf (loadStep b i s) := by
  unfold loadStep
  split
  · have hdraw : HostWf
        (if s.host.dec.written.contains i then (scratchByte s i, s) else draw8 s).2 := by
      split
      · exact h
      · exact h.touches (touches_draw8 s)
    exact (hdraw.setBankByte _ _ _).touches (touches_setActivity _ _)
  · exact h

theorem hostWf_ioLabel (l : IoLabel) (h : HostWf s) : HostWf (ioLabel l s) := by
  by_cases hw : l = .io3bc ∧ consoleHit s.regs.ea = false
  · obtain ⟨rfl, hc⟩ := hw
    simp only [ioLabel, hc]
    exact (h.bankWrite _ _ _).touches (touches_goto _ _)
  · exact h.touches (touches_ioLabel fun hl => by simpa [hl] using hw)

theorem exec_hostWf {i : Instr} (h : HostWf s) : Ensures HostWf (exec i s) := by
  have hbegin (op : Instr) : HostWf (beginHost op s) := h.touches (touches_beginHost s op)
  cases i with
  | iocyc =>
    exact ensures_iocyc h (fun _ _ => h.touches (touches_enterIo s)) fun l _ => hostWf_ioLabel l h
  | iowrMem =>
    exact .next (ioRun_induct _ h (fun _ => h.touches (touches_enterIo s))
      fun l _ _ => hostWf_ioLabel l)
  | bankWrite => exact .next (h.bankWrite _ _ _)
  | write =>
    dsimp only [exec, execWrite]
    exact ensures_whenFree h fun _ => ensures_withBank fun _ => .next ((hbegin _).bankWrite _ _ _)
  | clear =>
    exact ensures_clear h (fun _ => hostWf_clearStep _ _ (hbegin _)) fun _ _ =>
      hostWf_clearStep _ _ h
  | hexDecode =>
    exact ensures_hexDecode h (hostWf_beginDecode _ _ h) fun _ => hostWf_decodeStep _ h
  | chLtLf | chLtCr => exact ensures_charRow h fun _ _ => hostWf_lineEnd _ h
  | chHash => exact ensures_charRow h fun _ _ => hostWf_hashMark h
  | chOrgAt | chOrgColon => exact ensures_charRow h fun _ _ => hostWf_originMark h
  | chSepSpace | chSepTab => exact ensures_charRow h fun _ _ => hostWf_separator h
  | chHexNormalDigit | chHexNormalUpper | chHexNormalLower =>
    dsimp only [exec, execChHexNormalDigit, execChHexNormalUpper, execChHexNormalLower]
    exact ensures_charRow h fun _ hn => .next (hostWf_dataDigit _ (by simpa using hn) h)
  | chHexOriginDigit | chHexOriginUpper | chHexOriginLower =>
    dsimp only [exec, execChHexOriginDigit, execChHexOriginUpper, execChHexOriginLower]
    exact ensures_charRow h fun hrun ho =>
      .next (hostWf_originDigitAct _ hrun (by simpa using ho) h)
  | chBadNormal | chBadOrigin =>
    dsimp only [exec, execChBadNormal, execChBadOrigin]
    exact ensures_charRow h fun _ _ => .next (hostWf_raiseDecodeError h.1 h.2.1)
  | save =>
    exact ensures_save h (hostWf_saveStep _ _ (hbegin _)) (fun _ _ => hostWf_saveStep _ _ h)
      fun _ _ => h.touches (touches_encodeStep _ _ _)
  | load =>
    exact ensures_load h (hostWf_beginDecode _ _ h) (fun _ _ => hostWf_fetchStep _ _ h)
      fun _ _ => hostWf_loadStep _ _ h
  | _ =>
    exact fun t ht => h.congr (exec_same ht (by simp)) (exec_same ht (by simp))
      (exec_same ht (by simp))

end hostWf

/-! ### The invariant -/

/-- The invariant, by the parts that are carried one by one. -/
theorem inv_iff (s : State) :
    Inv s ↔ LinesFit s ∧ edgesSeen s = true ∧ ackFits s = true ∧ HostWf s ∧
      scriptOk s.book.script = true := by
  rw [Inv, hostWf_iff, LinesFit]
  tauto

/-- An operation that the handlers leave to others keeps the invariant. -/
theorem exec_keeps_inv {i : Instr} {s t : State} (hi : handlerOnly i = false) (hs : Inv s)
    (h : exec i s = .next t) : Inv t := by
  rw [inv_iff] at hs ⊢
  obtain ⟨hlines, hseen, hack, hhost, hscript⟩ := hs
  have hkept : t.book.script = s.book.script := exec_same h (not_mem_writes_inputs i).2.1
  exact ⟨exec_linesFit hi hlines t h, exec_edgesSeen hseen t h, exec_ackFits hack t h,
    exec_hostWf hhost t h, hkept ▸ hscript⟩

/-- A turn of the environment that writes neither levels nor the machine's own state keeps the
invariant. -/
theorem Inv.touches {cs : List Component} {s t : State} (hs : Inv s) (ht : Touches cs s t)
    (hc : ∀ c ∈ cs, c ∈ [Component.storage, .draws, .cpuLatch] := by decide) : Inv t := by
  have same (c : Component) (hn : c ∉ [Component.storage, .draws, .cpuLatch] := by decide) :
      Same s t c := ht c fun hm => hn (hc c hm)
  rw [inv_iff] at hs ⊢
  obtain ⟨hlines, hseen, hack, hhost, hscript⟩ := hs
  have hkept : t.book.script = s.book.script := same .script
  exact ⟨hlines.congr (same _) (same _), edgesSeen_congr hseen (same _) (same _) (same _),
    ackFits_congr hack (same _) (same _), hhost.congr (same _) (same _) (same _), hkept ▸ hscript⟩

/-- An ENV step keeps the invariant: the detector looks at every change (R32). -/
theorem envStep_keeps_inv (c : EnvChange) {s : State} (hs : Inv s) : Inv (envStep c s) := by
  have ht := touches_envStep c s
  rw [inv_iff] at hs ⊢
  obtain ⟨hlines, -, hack, hhost, hscript⟩ := hs
  have hkept : (envStep c s).book.script = s.book.script := ht .script (by decide)
  exact ⟨hlines.congr (ht _ (by decide)) (ht _ (by decide)), edgesSeen_observe _,
    ackFits_congr hack (ht _ (by decide)) (ht _ (by decide)), hhost.touches ht, hkept ▸ hscript⟩

/-- Taking a turn off the script keeps the invariant. -/
theorem setScript_tail_keeps_inv {s : State} (hs : Inv s) :
    Inv (setScript s.book.script.tail s) := by
  obtain ⟨hfits, hstore, hseen, hack, hdec, hscript⟩ := hs
  refine ⟨hfits, hstore, hseen, hack, hdec, ?_⟩
  rw [scriptOk, List.all_eq_true] at hscript ⊢
  exact fun turn hm => hscript turn (List.mem_of_mem_tail hm)

/-- Settles O60: the turn is taken off the script, then its operation or its change of the environment
keeps each part of the invariant. -/
theorem stepKeepsTheInvariant : Obligations.StepKeepsTheInvariant := by
  unfold Obligations.StepKeepsTheInvariant
  intro s t hs h
  have hu := setScript_tail_keeps_inv hs
  have hscript : scriptOk s.book.script = true := ((inv_iff s).mp hs).2.2.2.2
  obtain ⟨u, rfl, rfl | ⟨i, he, hi⟩ | ⟨c, rfl⟩ | rfl | ⟨k, rfl⟩⟩ := step_cases h
  · exact hu
  · exact exec_keeps_inv (hi hscript) hu he
  · exact envStep_keeps_inv c hu
  · exact hu.touches (touches_cpuSampleStep _)
  · exact hu.touches (touches_storageStep k _)

end Sys2Proof.Machine
end

section
/-! PROOFS. The bulk operations of the host, one byte a step (20_memory.md R56, R62): what `clear`,
`save` and the copy of `load` do when they are begun, at each further byte, and at their end. -/

namespace Sys2Proof.Machine

/-! ### The steps -/

section steps
variable {s : State} {b : BankNumber} {i : Nat}

theorem clearStep_byte (h : i < 32768) : clearStep b i s =
    setActivity (.clearing b (i + 1)) (setBankByte b (BitVec.ofNat 15 i) 0 s) := if_pos h

theorem clearStep_name (h : 32768 ≤ i) :
    clearStep b i s = setActivity .between (setName b .empty s) := if_neg (Nat.not_lt.mpr h)

theorem saveStep_byte (h : i < 32768) : saveStep b i s = setActivity (.saving b (i + 1))
    (setScratchByte i (bankByte s b (remapAddr (BitVec.ofNat 15 i))) s) := if_pos h

theorem saveStep_encode (h : 32768 ≤ i) : saveStep b i s = encodeStep 0 [] s :=
  if_neg (Nat.not_lt.mpr h)

theorem encodeStep_byte {text : List Byte} (h : i < 32768) : encodeStep i text s =
    setActivity (.encoding (i + 1) (text ++ encodeByte i (scratchByte s i))) s := if_pos h

theorem encodeStep_last {text : List Byte} (h : 32768 ≤ i) :
    encodeStep i text s = setActivity .between (handToFile text s) := if_neg (Nat.not_lt.mpr h)

theorem loadStep_stored (h : i < 32768) (hw : i ∈ s.host.dec.written) : loadStep b i s =
    setActivity (.loading b (i + 1)) (setBankByte b (BitVec.ofNat 15 i) (scratchByte s i) s) := by
  simp [loadStep, Config.bankSize, h, hw]

theorem loadStep_arbitrary (h : i < 32768) (hw : i ∉ s.host.dec.written) : loadStep b i s =
    setActivity (.loading b (i + 1))
      (setBankByte b (BitVec.ofNat 15 i) (draw8 s).1 (draw8 s).2) := by
  simp [loadStep, Config.bankSize, h, hw]

theorem loadStep_name (h : 32768 ≤ i) : loadStep b i s = setActivity .between (giveBack .success
    (setName b (Config.loadedName s.book.draws) { s with book.draws := s.book.draws + 1 })) :=
  if_neg (Nat.not_lt.mpr h)

theorem handToFile_success (h : s.host.storage = none) (text : List Byte) :
    handToFile text s = giveBack .success { s with host.fileOut := text } := by
  simp [handToFile, h]

theorem handToFile_storageError {k : Nat} (h : s.host.storage = some k) (text : List Byte) :
    handToFile text s = giveBack .storageError { s with host.fileOut := text.take k } := by
  simp [handToFile, h]

end steps

/-! ### Which step an operation performs -/

section performed
variable {s : State} {b : BankNumber} {i : Nat} {text : List Byte}

theorem exec_clear_between {bank : Byte} (ha : s.host.activity = .between) (hb : bank.toNat ≤ 7) :
    exec (.clear bank) s = .next (clearStep (bank.setWidth 3) 0 (beginHost (.clear bank) s)) := by
  simp [exec, execClear, ha, withBank_ok (Nat.lt_succ_of_le hb)]

theorem exec_clear_clearing (ha : s.host.activity = .clearing b i) :
    exec (.clear (b.setWidth 8)) s = .next (clearStep b i s) := by
  simp [exec, execClear, ha]

/-- A `clear` under way is not taken up for another bank. -/
theorem exec_clear_other {bank : Byte} (ha : s.host.activity = .clearing b i)
    (hb : bank ≠ b.setWidth 8) : exec (.clear bank) s = .next s := by
  simp [exec, execClear, ha, hb.symm]

theorem exec_save_between (ha : s.host.activity = .between) :
    exec .save s = .next (saveStep s.store.curBank 0 (beginHost .save s)) := by
  simp [exec, execSave, ha]

theorem exec_save_saving (ha : s.host.activity = .saving b i) :
    exec .save s = .next (saveStep b i s) := by
  simp [exec, execSave, ha]

theorem exec_save_encoding (ha : s.host.activity = .encoding i text) :
    exec .save s = .next (encodeStep i text s) := by
  simp [exec, execSave, ha]

/-- A fill with no byte left is an encoding that has none yet. -/
theorem exec_save_filled (ha : s.host.activity = .saving b i) (hi : 32768 ≤ i) :
    exec .save s = .next (encodeStep 0 [] s) := by
  rw [exec_save_saving ha, saveStep_encode hi]

theorem exec_load_loading (ha : s.host.activity = .loading b i) :
    exec (.load text) s = .next (loadStep b i s) := by
  simp [exec, execLoad, ha]

end performed

/-! ### The one byte a step writes -/

/-- Writing a bank byte leaves every other as it was. -/
theorem bankKeptBut_setBankByte (b : BankNumber) (i : BankIndex) (v : Byte) (s : State) :
    BankKeptBut b i s (setBankByte b i v s) := fun _ _ => bankByte_setBankByte_other s v

/-- Writing a scratch byte leaves every other as it was. -/
theorem scratchKeptBut_setScratchByte (i : Nat) (v : Byte) (s : State) :
    ScratchKeptBut i s (setScratchByte i v s) := fun _ => scratchByte_setScratchByte_other s v

/-! ### The text of a byte (R147, R148) -/

theorem hexChar_eq_hexCode : ∀ d : BitVec 4, hexChar d = BitVec.ofNat 8 (hexCode d.toNat) := by
  decide

theorem hex2_eq_hexCode (v : Byte) :
    hex2 v = [BitVec.ofNat 8 (hexCode (v.toNat / 16)), BitVec.ofNat 8 (hexCode (v.toNat % 16))] := by
  have high : (v.extractLsb' 4 4).toNat = v.toNat / 16 := by
    rw [BitVec.extractLsb'_toNat, Nat.shiftRight_eq_div_pow]; omega
  have low : (v.extractLsb' 0 4).toNat = v.toNat % 16 := by
    rw [BitVec.extractLsb'_toNat, Nat.shiftRight_zero]
  rw [hex2, hexChar_eq_hexCode, hexChar_eq_hexCode, high, low]

/-- One step of the encoding, its text written out by the codes of the characters. -/
theorem encodeStep_byte_hexCode {s : State} {i : Nat} (text : List Byte) (h : i < 32768) :
    encodeStep i text s = { s with
      host.activity := .encoding (i + 1) (text ++
        (if i = 0 then [] else if i % 16 = 0 then [0x0A] else [0x20]) ++
        [BitVec.ofNat 8 (hexCode ((scratchByte s i).toNat / 16)),
         BitVec.ofNat 8 (hexCode ((scratchByte s i).toNat % 16))]) } := by
  rw [encodeStep_byte h, encodeByte, hex2_eq_hexCode, ← List.append_assoc]
  rfl

/-! ### The copy of a load (R151) -/

/-- A byte of the copy: the stream's own if it stored one there, an arbitrary one if not. -/
theorem loadStep_copies_byte {s : State} {b : BankNumber} {i : Nat} (h : i < 32768) :
    ∃ k, { loadStep b i s with store.bank := s.store.bank } = { s with
        host.activity := .loading b (i + 1), book.draws := s.book.draws + k } ∧
      (i ∈ s.host.dec.written →
        k = 0 ∧ bankByte (loadStep b i s) b (BitVec.ofNat 15 i) = scratchByte s i) ∧
      (i ∉ s.host.dec.written →
        k = 1 ∧ bankByte (loadStep b i s) b (BitVec.ofNat 15 i) = Config.draw8 s.book.draws) ∧
      BankKeptBut b (BitVec.ofNat 15 i) s (loadStep b i s) := by
  by_cases hw : i ∈ s.host.dec.written
  · rw [loadStep_stored h hw]
    exact ⟨0, rfl, fun _ => ⟨rfl, bankByte_setBankByte_same s _ _ _⟩, (absurd hw ·),
      bankKeptBut_setBankByte _ _ _ s⟩
  · rw [loadStep_arbitrary h hw]
    exact ⟨1, rfl, (absurd · hw), fun _ => ⟨rfl, bankByte_setBankByte_same (draw8 s).2 _ _ _⟩,
      bankKeptBut_setBankByte _ _ _ (draw8 s).2⟩

/-- Settles O38: the operation names the step it performs, and each step writes its one byte, its text
or its name, as the lemma on that step says. -/
theorem bulkOperationsMoveOneByteAStep : Obligations.BulkOperationsMoveOneByteAStep := by
  unfold Obligations.BulkOperationsMoveOneByteAStep
  refine ⟨fun s bank ha hb => ?clearBegun, fun s b i ha => ⟨fun hi => ?clearByte,
    fun hi => ?clearName, fun bank => exec_clear_other ha⟩, fun s ha => ?saveBegun,
    fun s b i ha hi => ?saveByte, fun s i text ha => ?encoding,
    fun s b i text ha => ⟨fun hi => ?loadByte, fun hi => ?loadName⟩⟩
  case clearBegun =>
    rw [exec_clear_between ha hb, clearStep_byte (by decide)]
    exact ⟨_, rfl, rfl, bankByte_setBankByte_same (beginHost _ s) _ _ _,
      bankKeptBut_setBankByte _ _ _ (beginHost _ s)⟩
  case clearByte =>
    rw [exec_clear_clearing ha, clearStep_byte hi]
    exact ⟨_, rfl, rfl, bankByte_setBankByte_same s _ _ _, bankKeptBut_setBankByte _ _ _ s⟩
  case clearName => rw [exec_clear_clearing ha, clearStep_name hi]; rfl
  case saveBegun =>
    rw [exec_save_between ha, saveStep_byte (by decide)]
    exact ⟨_, rfl, rfl, scratchByte_setScratchByte_same (beginHost _ s) _ _,
      scratchKeptBut_setScratchByte _ _ (beginHost _ s)⟩
  case saveByte =>
    rw [exec_save_saving ha, saveStep_byte hi]
    exact ⟨_, rfl, rfl, scratchByte_setScratchByte_same s _ _, scratchKeptBut_setScratchByte _ _ s⟩
  case encoding =>
    have he : exec .save s = .next (encodeStep i text s) := by
      rcases ha with ha | ⟨b, j, ha, hj, rfl, rfl⟩
      · exact exec_save_encoding ha
      · exact exec_save_filled ha hj
    rw [he]
    refine ⟨fun hi => ?_, fun hi hs => ?_, fun hi k hs => ?_⟩
    · rw [encodeStep_byte_hexCode text hi]
    · rw [encodeStep_last hi, handToFile_success hs]; rfl
    · rw [encodeStep_last hi, handToFile_storageError hs]; rfl
  case loadByte =>
    obtain ⟨k, hcopy⟩ := loadStep_copies_byte (s := s) (b := b) hi
    exact ⟨_, k, exec_load_loading ha, hcopy⟩
  case loadName => rw [exec_load_loading ha, loadStep_name hi]; rfl

end Sys2Proof.Machine
end

section
/-! PROOFS. The line that names an operation and the step that performs it (30_encoding.md): the
turn that is a line, control words, `CYC` words and characters. -/

namespace Sys2Proof.Machine

/-! ### The turn that is a line (R86) -/

/-- A step whose turn is a line performs what the line is read as. -/
theorem step_line {s : State} {bytes : List Byte} {rest : List Turn}
    (h : s.book.script = .line bytes :: rest) : step s = runLine bytes (setScript rest s) := by
  simp [step, h]

theorem runLine_ok {s : State} {bytes : List Byte} {i : Instr}
    (h : decode s.host.dec.pstate bytes = .ok i) : runLine bytes s = exec i s := by
  simp [runLine, h]

theorem runLine_reject {s : State} {bytes : List Byte} {r : Reject}
    (h : decode s.host.dec.pstate bytes = .reject r) : runLine bytes s = onReject r s := by
  simp [runLine, h]

/-- A placed table word is the next turn, and taking it gives back the state it was placed in. -/
theorem step_withFetchWord {s : State} {nbits w : Nat} {line : List Byte}
    (h : tableLine nbits w = some line) : step (s.withFetchWord nbits w) = runLine line s := by
  have hplace : s.withFetchWord nbits w = placeLine line s := by simp [State.withFetchWord, h]
  rw [hplace, step_line rfl]
  rfl

/-- Settles O7: a line that decodes is run as the operation it names. -/
theorem stepPerformsTheDecodedLine : Obligations.StepPerformsTheDecodedLine := by
  unfold Obligations.StepPerformsTheDecodedLine
  refine ⟨fun s bytes rest i hs hi => ?scripted, fun s nbits w line i hl hi => ?placed⟩
  case scripted => rw [step_line hs]; exact runLine_ok hi
  case placed => rw [step_withFetchWord hl, runLine_ok hi]

/-! ### Words of the hardware's formats -/

/-- Settles O1: the decoder evaluates each of the ten fixed lines. -/
theorem specWordsDecode : Obligations.SpecWordsDecode := by
  unfold Obligations.SpecWordsDecode
  decide

/-! ### Control words (R71 to R73) -/

/-- The control word of a phase is an operation's. -/
theorem decodeMuxctl_ctlEncode (m : MuxState) :
    ∃ i, decodeMuxctl (ctlEncode m).toNat = .ok i := by
  cases m <;> exact ⟨_, rfl⟩

/-- A word that is no phase's is rejected by its number. -/
theorem decodeMuxctl_illegal {w : BitVec 6} (h : ∀ m, ctlEncode m ≠ w) :
    decodeMuxctl w.toNat = .reject (.illegalMuxctl w.toNat) := by
  have hne (m : MuxState) : w.toNat ≠ (ctlEncode m).toNat := fun e =>
    h m (BitVec.eq_of_toNat_eq e.symm)
  rw [decodeMuxctl, if_neg (show w.toNat ≠ 0x36 from hne .lowAddrIn),
    if_neg (show w.toNat ≠ 0x2D from hne .highAddrIn), if_neg (show w.toNat ≠ 0x1B from hne .dataIn),
    if_neg (show w.toNat ≠ 0x3B from hne .dataOut), if_neg (show w.toNat ≠ 0x3F from hne .neutral)]

/-- A line that presents a control word is read as the word is. -/
theorem decode_muxctl (p : PState) (w : BitVec 6) :
    decode p [0x01, w.setWidth 8] = decodeMuxctl w.toNat := by
  have hw : (w.setWidth 8).toNat = w.toNat := by
    rw [BitVec.toNat_setWidth]; have := w.isLt; omega
  change decodeMuxctl (w.setWidth 8).toNat = _
  rw [hw]

/-- No phase selects two channels (R72). -/
theorem ctlEncode_selects_one (m : MuxState) {c d : Fin 3} (hne : c ≠ d) :
    ¬((ctlSel (ctlEncode m)).getLsbD c = false ∧ (ctlSel (ctlEncode m)).getLsbD d = false) := by
  revert c d
  cases m <;> decide

/-- The direction bit of a deselected channel is 1 (R72). -/
theorem ctlEncode_deselected_dir (m : MuxState) (c : Fin 3) :
    ¬((ctlSel (ctlEncode m)).getLsbD c = true ∧ (ctlDir (ctlEncode m)).getLsbD c = false) := by
  revert c
  cases m <;> decide

/-- Settles O2: the words are counted; a word is an operation's exactly when it is a phase's, and no
phase's word is of one of the two named kinds. -/
theorem onlyFiveControlWordsAreLegal : Obligations.OnlyFiveControlWordsAreLegal := by
  unfold Obligations.OnlyFiveControlWordsAreLegal
  refine ⟨by decide, fun w => ⟨⟨?legal, ?decoded⟩, ?twoSelected, ?direction⟩, ?fault⟩
  case legal =>
    rintro ⟨m, rfl⟩
    rw [decode_muxctl]
    exact decodeMuxctl_ctlEncode m
  case decoded =>
    rintro ⟨i, hi⟩
    by_contra hm
    rw [decode_muxctl, decodeMuxctl_illegal (not_exists.1 hm)] at hi
    cases hi
  case twoSelected =>
    rintro ⟨c, d, hne, hbits⟩ m rfl
    exact ctlEncode_selects_one m hne hbits
  case direction =>
    rintro ⟨c, hbits⟩ m rfl
    exact ctlEncode_deselected_dir m c hbits
  case fault =>
    intro s rest w hm hs
    have hr : decode (setScript rest s).host.dec.pstate [0x01, w.setWidth 8] =
        .reject (.illegalMuxctl w.toNat) := by rw [decode_muxctl, decodeMuxctl_illegal hm]
    rw [step_line hs, runLine_reject hr]
    rfl

/-! ### `CYC` words (R75) -/

/-- Settles O3: for each of the 32 words the rows it lies in are counted, and it is read as its row. -/
theorem cycRowsPartitionAllWords : Obligations.CycRowsPartitionAllWords := by
  unfold Obligations.CycRowsPartitionAllWords
  decide

/-! ### Characters (R81, R131) -/

theorem charClass_ne_lt {c : Byte} (hlf : c ≠ 0x0A) (hcr : c ≠ 0x0D) : charClass c ≠ .lt := by
  rw [charClass, if_neg (not_or.2 ⟨hlf, hcr⟩)]
  split_ifs <;> simp

/-- A code outside the ranges of the digits and apart from the seven named codes is invalid. -/
theorem charClass_bad {c : Byte}
    (hn : c ∉ [0x0A#8, 0x0D#8, 0x23#8, 0x40#8, 0x3A#8, 0x20#8, 0x09#8])
    (hd : ¬(0x30 ≤ c.toNat ∧ c.toNat ≤ 0x39)) (hu : ¬(0x41 ≤ c.toNat ∧ c.toNat ≤ 0x46))
    (hl : ¬(0x61 ≤ c.toNat ∧ c.toNat ≤ 0x66)) : charClass c = .bad := by
  simp only [List.mem_cons, List.not_mem_nil, or_false, not_or] at hn
  obtain ⟨hlf, hcr, hhash, hat, hcolon, hspace, htab⟩ := hn
  simp [charClass, hlf, hcr, hhash, hat, hcolon, hspace, htab, hd, hu, hl]

/-- A code in the range of the decimal digits is the character of its digit. -/
theorem digitChar_of_range {c : Byte} (h : 0x30 ≤ c.toNat) (h' : c.toNat ≤ 0x39) :
    ∃ d, digitOk d = true ∧ c = digitChar d ∧ BitVec.ofNat 4 (c.toNat - 0x30) = d := by
  refine ⟨BitVec.ofNat 4 (c.toNat - 0x30), ?_, ?_, rfl⟩ <;> revert c <;> decide

/-- A code in the range of the upper-case letters is the character of its letter. -/
theorem upperChar_of_range {c : Byte} (h : 0x41 ≤ c.toNat) (h' : c.toNat ≤ 0x46) :
    ∃ l, letterOk l = true ∧ c = upperChar l ∧ BitVec.ofNat 3 (c.toNat - 0x40) = l := by
  refine ⟨BitVec.ofNat 3 (c.toNat - 0x40), ?_, ?_, rfl⟩ <;> revert c <;> decide

/-- A code in the range of the lower-case letters is the character of its letter. -/
theorem lowerChar_of_range {c : Byte} (h : 0x61 ≤ c.toNat) (h' : c.toNat ≤ 0x66) :
    ∃ l, letterOk l = true ∧ c = lowerChar l ∧ BitVec.ofNat 3 (c.toNat - 0x60) = l := by
  refine ⟨BitVec.ofNat 3 (c.toNat - 0x60), ?_, ?_, rfl⟩ <;> revert c <;> decide

/-- Settles O4: each code is the character of its row, and the row's line is read back as the row. -/
theorem charactersSelectTheirRows : Obligations.CharactersSelectTheirRows := by
  unfold Obligations.CharactersSelectTheirRows
  intro p c
  refine ⟨?lf, ?cr, ?comment, fun hp => ?named, fun h h' => ?digit, fun h h' => ?upper,
    fun h h' => ?lower, fun hn hd hu hl => ?bad⟩
  case lf => rintro rfl; exact Laws.RoundTrip.chLtLf p rfl rfl
  case cr => rintro rfl; exact Laws.RoundTrip.chLtCr p rfl rfl
  case comment =>
    rintro rfl hlf hcr
    exact Laws.RoundTrip.chAnyComment c .inComment (decide_eq_true (charClass_ne_lt hlf hcr)) rfl
  case named =>
    have hr : (p != .inComment) = true := bne_iff_ne.2 hp
    refine ⟨?_, ?_, ?_, ?_, ?_⟩ <;> rintro rfl
    · exact Laws.RoundTrip.chHash p rfl hr
    · exact Laws.RoundTrip.chOrgAt p rfl hr
    · exact Laws.RoundTrip.chOrgColon p rfl hr
    · exact Laws.RoundTrip.chSepSpace p rfl hr
    · exact Laws.RoundTrip.chSepTab p rfl hr
  case digit =>
    obtain ⟨d, hok, rfl, hfield⟩ := digitChar_of_range h h'
    rw [hfield]
    refine ⟨?_, ?_⟩ <;> rintro rfl
    · exact Laws.RoundTrip.chHexNormalDigit d .normal hok rfl
    · exact Laws.RoundTrip.chHexOriginDigit d .inOrigin hok rfl
  case upper =>
    obtain ⟨l, hok, rfl, hfield⟩ := upperChar_of_range h h'
    rw [hfield]
    refine ⟨?_, ?_⟩ <;> rintro rfl
    · exact Laws.RoundTrip.chHexNormalUpper l .normal hok rfl
    · exact Laws.RoundTrip.chHexOriginUpper l .inOrigin hok rfl
  case lower =>
    obtain ⟨l, hok, rfl, hfield⟩ := lowerChar_of_range h h'
    rw [hfield]
    refine ⟨?_, ?_⟩ <;> rintro rfl
    · exact Laws.RoundTrip.chHexNormalLower l .normal hok rfl
    · exact Laws.RoundTrip.chHexOriginLower l .inOrigin hok rfl
  case bad =>
    have hbad := decide_eq_true (charClass_bad hn hd hu hl)
    refine ⟨?_, ?_⟩ <;> rintro rfl
    · exact Laws.RoundTrip.chBadNormal c .normal hbad rfl
    · exact Laws.RoundTrip.chBadOrigin c .inOrigin hbad rfl

end Sys2Proof.Machine
end

section
/-! PROOFS. The outcomes of a whole handler run (R74, R75): the run cut at the handler's own test, each
part in closed form, and the parts put together. -/

namespace Sys2Proof.Machine

/-! ### Addresses and samples in a handler run -/

theorem effectiveAddress_bytes (a : Addr) : effectiveAddress (lowByte a) (highByte a) = a :=
  Laws.addrOf_bytes a

/-- Dropping bit 15 is the remainder by the bank's size (R59). -/
theorem bankIdx_eq_mod (a : Addr) : bankIdx a = BitVec.ofNat 15 (a.toNat % 32768) := by
  apply BitVec.eq_of_toNat_eq
  simp [bankIdx]

/-- With the shared lines released no drive ends at `NEUT` (R91). -/
theorem neutral_input {s : State} (h : s.arb.shMode = .input) :
    neutral s = { s with arb.mux := .neutral, arb.settled := false } := by
  simp [neutral, engineDrives, h]

/-- The byte on the CPU's data bus, and how many free values are drawn for it: the CPU's own byte, or
any if it drives none (R96). -/
def CpuByte (s : State) (v : Byte) (k : Nat) : Prop :=
  (s.env.dcpuDrv = true ∧ v = s.env.dcpu ∧ k = 0) ∨
    (s.env.dcpuDrv = false ∧ v = Config.draw8 s.book.draws ∧ k = 1)

/-- A settled sample of the data channel takes the byte on the CPU's data bus, which no step since `s`
has changed. -/
theorem sampled_dataIn {s u : State} {v : Byte} {k : Nat} (hv : CpuByte s v k) (he : u.env = s.env)
    (hb : u.book.draws = s.book.draws) (hm : u.arb.mux = .dataIn) (hi : u.arb.shMode = .input)
    (hs : u.arb.settled = true) :
    sampled u = (v, { u with book.draws := u.book.draws + k }) := by
  rcases hv with ⟨hd, rfl, rfl⟩ | ⟨hd, rfl, rfl⟩
  · rw [← he] at hd ⊢
    exact sampled_data hm hi hs hd
  · simp [sampled, sharedIn, hm, hi, hs, he, hb, hd, draw8]

/-! ### Whole I/O runs -/

/-- A served I/O edge whose run is classified by `o` is that run (R74). -/
theorem ioRun_of_outcome {s : State} {o : IoOutcome} (hq : s.sequencer = .idle)
    (hp : s.edge.pendIo = true) (ho : ioOutcome (ioToTest s) = o) :
    ioRun o s = ioFinish (ioToTest s) := by
  simp [ioRun, hq, hp, ho]

/-- The run up to the direction test: both address bytes are sampled and joined (R102, R103). -/
theorem ioToTest_eq (s : State) :
    ioToTest s = { s with
      arb := { s.arb with mux := .highAddrIn, shMode := .input, settled := true }
      edge.pendIo := false
      sequencer := .io .io3
      regs := { s.regs with addrLo := lowByte s.env.a, addrHi := highByte s.env.a, ea := s.env.a,
                            kind := .ioCycle }
      book.hist := s.book.hist ++ [.enter .io, .sample .lowAddrIn (lowByte s.env.a),
        .sample .highAddrIn (highByte s.env.a)] } := by
  simp [ioToTest, ioSteps, ioStep, ioLabel, enterHandler_io, goto, selectPhase_input, settleWait,
    releaseLines, sample, sampled_lowAddr, sampled_highAddr, writeSampled, emit,
    effectiveAddress_bytes]

section fromTest
variable {u : State} (hq : u.sequencer = .io .io3) (hi : u.arb.shMode = .input)
include hq hi

/-- From the direction test to the return, no write being indicated (R104, R105). -/
theorem ioFinish_noWrite (hw : u.env.iorqN = .high) :
    ioFinish u = { u with
      arb.mux := .neutral, arb.settled := false, sequencer := .idle
      book.hist := u.book.hist ++ [.test .iorq .high, .noWrite, .exit .io] } := by
  simp [ioFinish, ioSteps, ioStep, hq, ioLabel, Config.ioDirLine, Config.ioDirWriteLevel, lineLevel,
    hw, writeIndicated, goto, emit, emitTests, levelsOf, neutral_input, hi, leaveHandler]

section write
variable {s : State} {v : Byte} {k : Nat} (hv : CpuByte s v k) (he : u.env = s.env)
  (hb : u.book.draws = s.book.draws) (hw : s.env.iorqN = .low)
include hv he hb hw

/-- From the direction test to the data byte, a write being indicated (R104). -/
theorem ioSteps_toData :
    ioSteps 4 u = { u with
      arb.mux := .dataIn, arb.settled := true, regs.data := v, sequencer := .io .io3bc
      book.draws := u.book.draws + k
      book.hist := u.book.hist ++ [.test .iorq .low, .sample .dataIn v] } := by
  simp [ioSteps, ioStep, hq, ioLabel, Config.ioDirLine, Config.ioDirWriteLevel, lineLevel, hw,
    writeIndicated, goto, emit, emitTests, levelsOf, selectPhase_input, settleWait, hi, sample,
    sampled_dataIn hv, he, hb, writeSampled]

/-- From the direction test to the return, a write being indicated at the console's address (R106). -/
theorem ioFinish_console (hc : consoleHit u.regs.ea = true) :
    ioFinish u = { u with
      arb.mux := .neutral, arb.settled := false, regs.data := v, sequencer := .idle
      book.draws := u.book.draws + k
      book.hist := u.book.hist ++
        [.test .iorq .low, .sample .dataIn v, .console v, .exit .io] } := by
  change ioSteps 2 (ioSteps 4 u) = _
  rw [ioSteps_toData hq hi hv he hb hw]
  simp [ioSteps, ioStep, ioLabel, hc, goto, emit, neutral_input, hi, leaveHandler]

/-- From the direction test to the return, a write being indicated at another address (R107). -/
theorem ioFinish_store (hc : consoleHit u.regs.ea = false) :
    ioFinish u = { setBankByte u.store.curBank (bankIdx u.regs.ea) v u with
      arb.mux := .neutral, arb.settled := false, regs.data := v, sequencer := .idle
      book.draws := u.book.draws + k
      book.hist := u.book.hist ++
        [.test .iorq .low, .sample .dataIn v,
         .bankWrite u.store.curBank (bankIdx u.regs.ea) v, .exit .io] } := by
  change ioSteps 2 (ioSteps 4 u) = _
  rw [ioSteps_toData hq hi hv he hb hw]
  simp [ioSteps, ioStep, ioLabel, hc, goto, emit, bankWrite, setBankByte, neutral_input, hi,
    leaveHandler]

end write

end fromTest

/-- The outcome of a run is that of the line and the address it is held with (R75). -/
theorem ioOutcome_ioToTest (s : State) : ioOutcome (ioToTest s) =
    if s.env.iorqN = .high then .ioNowr else if s.env.a = 0x0040 then .iowrCon else .iowrMem := by
  rw [ioToTest_eq]
  cases h : s.env.iorqN <;>
    simp [ioOutcome, lineLevel, Config.ioDirLine, Config.ioDirWriteLevel, writeIndicated, consoleHit,
      Config.consolePort, h]

section ioRuns
variable {s : State} {v : Byte} {k : Nat} (hq : s.sequencer = .idle) (hp : s.edge.pendIo = true)
include hq hp

/-- A run in which no write is indicated, from the latched edge to the return. -/
theorem ioRun_ioNowr (hw : s.env.iorqN = .high) :
    ioRun .ioNowr s = { s with
      arb := { s.arb with mux := .neutral, shMode := .input, settled := false }
      edge.pendIo := false
      regs := { s.regs with addrLo := lowByte s.env.a, addrHi := highByte s.env.a, ea := s.env.a,
                            kind := .ioCycle }
      book.hist := s.book.hist ++
        [.enter .io, .sample .lowAddrIn (lowByte s.env.a),
         .sample .highAddrIn (highByte s.env.a), .test .iorq .high, .noWrite, .exit .io] } := by
  rw [ioRun_of_outcome hq hp (by simp [ioOutcome_ioToTest, hw])]
  simp [ioToTest_eq, ioFinish_noWrite, hw, hq]

/-- A write to the console, from the latched edge to the return. -/
theorem ioRun_iowrCon (hv : CpuByte s v k) (hw : s.env.iorqN = .low) (ha : s.env.a = 0x0040) :
    ioRun .iowrCon s = { s with
      arb := { s.arb with mux := .neutral, shMode := .input, settled := false }
      edge.pendIo := false
      regs := { addrLo := lowByte s.env.a, addrHi := highByte s.env.a, ea := s.env.a, data := v,
                kind := .ioCycle }
      book.draws := s.book.draws + k
      book.hist := s.book.hist ++
        [.enter .io, .sample .lowAddrIn (lowByte s.env.a),
         .sample .highAddrIn (highByte s.env.a), .test .iorq .low, .sample .dataIn v, .console v,
         .exit .io] } := by
  have hc : consoleHit s.env.a = true := beq_iff_eq.2 ha
  rw [ioRun_of_outcome hq hp (by simp [ioOutcome_ioToTest, hw, ha])]
  simp [ioToTest_eq, ioFinish_console (hv := hv), hc, hw, hq]

/-- A write to the bank, from the latched edge to the return. -/
theorem ioRun_iowrMem (hv : CpuByte s v k) (hw : s.env.iorqN = .low) (ha : s.env.a ≠ 0x0040) :
    ioRun .iowrMem s = { setBankByte s.store.curBank (bankIdx s.env.a) v s with
      arb := { s.arb with mux := .neutral, shMode := .input, settled := false }
      edge.pendIo := false
      regs := { addrLo := lowByte s.env.a, addrHi := highByte s.env.a, ea := s.env.a, data := v,
                kind := .ioCycle }
      book.draws := s.book.draws + k
      book.hist := s.book.hist ++
        [.enter .io, .sample .lowAddrIn (lowByte s.env.a),
         .sample .highAddrIn (highByte s.env.a), .test .iorq .low, .sample .dataIn v,
         .bankWrite s.store.curBank (bankIdx s.env.a) v, .exit .io] } := by
  have hc : consoleHit s.env.a = false := beq_eq_false_iff_ne.2 ha
  rw [ioRun_of_outcome hq hp (by rw [ioOutcome_ioToTest, hw, if_neg (by decide), if_neg ha])]
  simp [ioToTest_eq, ioFinish_store (hv := hv), hc, hw, hq, setBankByte]

end ioRuns

/-- Settles O30: each outcome is its run in closed form; of the bank a write changes the one byte of
`setBankByte`. -/
theorem ioRunOutcomes : Obligations.IoRunOutcomes := by
  unfold Obligations.IoRunOutcomes
  intro s m r c v k hq hp hv
  refine ⟨fun hw ha => ?iowrMem, fun hw ha => ?iowrCon, fun hw => ?ioNowr⟩
  case iowrMem =>
    refine ⟨_, congrArg Host.Outcome.next (ioRun_iowrMem hq hp hv hw ha), ?_⟩
    rw [← bankIdx_eq_mod]
    exact ⟨rfl, bankByte_setBankByte_same s _ _ v, bankKeptBut_setBankByte _ _ v s⟩
  case iowrCon => exact congrArg Host.Outcome.next (ioRun_iowrCon hq hp hv hw ha)
  case ioNowr => exact congrArg Host.Outcome.next (ioRun_ioNowr hq hp hw)

/-! ### Whole memory runs -/

/-- A served memory edge whose run is classified by `o` is that run (R74). -/
theorem memRun_of_outcome {s : State} {o : MemOutcome} (hq : s.sequencer = .idle)
    (hp : s.edge.pendMem = true) (ho : memOutcome (memToCheck s) = o) :
    memRun o s = memFinish (memToCheck s) := by
  simp [memRun, hq, hp, ho]

/-- Steps of the memory handler when none runs. -/
theorem memSteps_idle {s : State} (n : Nat) (h : s.sequencer = .idle) : memSteps n s = s := by
  induction n with
  | zero => rfl
  | succ n ih => simpa [memSteps, memStep, h] using ih

/-- Where the engine begins to drive, a contention follows the drive if the CPU drives too (R94, R99). -/
theorem driveData_eq {s : State} (v : Byte) (h : s.arb.mux ≠ .dataOut) :
    driveData v s = { s with
      arb := { mux := .dataOut, settled := false, shOut := v, shMode := .output }
      book.hist := s.book.hist ++
        .drive s.regs.ea v :: if s.env.dcpuDrv = true then [.contention] else [] } := by
  cases hd : s.env.dcpuDrv <;>
    simp [driveData, noteContention, h, hd, contended, engineDrives, emit]

/-- The run up to the re-check: the low address byte is sampled (R110). -/
theorem memToCheck_eq {s : State} (hi : s.arb.shMode = .input) :
    memToCheck s = { s with
      arb.mux := .neutral, arb.settled := false, edge.pendMem := false
      sequencer := .mem .m2
      regs.addrLo := lowByte s.env.a
      book.hist := s.book.hist ++ [.enter .mem, .sample .lowAddrIn (lowByte s.env.a)] } := by
  simp [memToCheck, memSteps, memStep, memLabel, enterHandler_mem, goto, selectPhase_input,
    settleWait, releaseLines, sample, sampled_lowAddr, writeSampled, emit, neutral_input, hi]

/-- From the re-check to the return, a line being inactive (R111). -/
theorem memFinish_abort {u : State} (hq : u.sequencer = .mem .m2)
    (hl : u.env.mreqN = .high ∨ u.env.rdN = .high) :
    memFinish u = { u with
      regs.kind := .memUnserviced, sequencer := .idle
      book.hist := u.book.hist ++
        [.test .mreq u.env.mreqN, .test .rd u.env.rdN, .abort u.regs.addrLo, .exit .mem] } := by
  have ha : (lineActive u .mreq && lineActive u .rd) = false := by
    rcases hl with h | h <;> simp [lineActive, lineLevel, Config.activeLevel, h]
  have hstep : memStep u = { u with
      regs.kind := .memUnserviced, sequencer := .idle
      book.hist := u.book.hist ++
        [.test .mreq u.env.mreqN, .test .rd u.env.rdN, .abort u.regs.addrLo, .exit .mem] } := by
    simp [memStep, hq, memLabel, ha, leaveHandler, emit, emitTests, levelsOf, lineLevel]
  change memSteps 9 (memStep u) = _
  rw [hstep]
  exact memSteps_idle 9 rfl

/-- From the re-check to the bank read, both lines being active: the high address byte is sampled and
the address joined (R112). -/
theorem memSteps_toRead {u : State} (hi : u.arb.shMode = .input) (hq : u.sequencer = .mem .m2)
    (hm : u.env.mreqN = .low) (hr : u.env.rdN = .low) :
    memSteps 5 u = { u with
      arb.mux := .neutral, arb.settled := false, sequencer := .mem .m4
      regs := { u.regs with addrHi := highByte u.env.a, kind := .memRead,
                            ea := effectiveAddress u.regs.addrLo (highByte u.env.a) }
      book.hist := u.book.hist ++
        [.test .mreq .low, .test .rd .low, .sample .highAddrIn (highByte u.env.a)] } := by
  simp [memSteps, memStep, hq, memLabel, lineActive, Config.activeLevel, lineLevel, hm, hr, goto,
    emit, emitTests, levelsOf, selectPhase_input, settleWait, sample, sampled_highAddr, writeSampled,
    neutral_input, hi]

/-- From the bank read to the return: the byte is driven and released (R113 to R115). -/
theorem memSteps_fromRead {u : State} {v : Byte} (hn : u.arb.mux = .neutral)
    (hq : u.sequencer = .mem .m4) (hv : bankRead u u.store.curBank u.regs.ea = v) :
    memSteps 5 u = { u with
      arb := { mux := .neutral, shMode := .input, shOut := v, settled := false }
      regs.data := v, sequencer := .idle
      book.hist := u.book.hist ++
        [.bankRead u.store.curBank (bankIdx u.regs.ea) v, .drive u.regs.ea v] ++
        (if u.env.dcpuDrv = true then [.contention] else []) ++ [.release, .exit .mem] } := by
  simp [memSteps, memStep, hq, memLabel, hv, goto, emit, driveData_eq, hn, engineDrives,
    settleWait, neutral, releaseLines, leaveHandler]

/-- The outcome of a run is that of the lines it is held with (R75). -/
theorem memOutcome_memToCheck {s : State} (hi : s.arb.shMode = .input) :
    memOutcome (memToCheck s) =
      if s.env.mreqN = .high then .abortMreqInactive
      else if s.env.rdN = .high then .abortRdInactive else .memrd := by
  rw [memToCheck_eq hi]
  cases hm : s.env.mreqN <;> cases hr : s.env.rdN <;>
    simp [memOutcome, lineActive, lineLevel, Config.activeLevel, hm, hr]

section memRuns
variable {s : State} (hq : s.sequencer = .idle) (hp : s.edge.pendMem = true)
  (hi : s.arb.shMode = .input)
include hq hp hi

/-- A run that finds a line inactive at its re-check, from the latched edge to the return. -/
theorem memRun_abort {o : MemOutcome} (ho : memOutcome (memToCheck s) = o)
    (hl : s.env.mreqN = .high ∨ s.env.rdN = .high) :
    memRun o s = { s with
      arb.mux := .neutral, arb.settled := false, edge.pendMem := false
      regs := { s.regs with addrLo := lowByte s.env.a, kind := .memUnserviced }
      book.hist := s.book.hist ++
        [.enter .mem, .sample .lowAddrIn (lowByte s.env.a), .test .mreq s.env.mreqN,
         .test .rd s.env.rdN, .abort (lowByte s.env.a), .exit .mem] } := by
  rw [memRun_of_outcome hq hp ho]
  simp [memToCheck_eq hi, memFinish_abort, hl, hq]

/-- A read, from the latched edge to the return. -/
theorem memRun_memrd {v : Byte} (hm : s.env.mreqN = .low) (hr : s.env.rdN = .low)
    (hv : bankRead s s.store.curBank s.env.a = v) :
    memRun .memrd s = { s with
      arb := { mux := .neutral, shMode := .input, shOut := v, settled := false }
      edge.pendMem := false
      regs := { addrLo := lowByte s.env.a, addrHi := highByte s.env.a, ea := s.env.a, data := v,
                kind := .memRead }
      book.hist := s.book.hist ++
        [.enter .mem, .sample .lowAddrIn (lowByte s.env.a), .test .mreq .low, .test .rd .low,
         .sample .highAddrIn (highByte s.env.a), .bankRead s.store.curBank (bankIdx s.env.a) v,
         .drive s.env.a v] ++
        (if s.env.dcpuDrv = true then [.contention] else []) ++ [.release, .exit .mem] } := by
  rw [memRun_of_outcome hq hp (by simp [memOutcome_memToCheck hi, hm, hr])]
  change memSteps 5 (memSteps 5 (memToCheck s)) = _
  simp only [memToCheck_eq hi, memSteps_toRead, hi, hm, hr, effectiveAddress_bytes]
  rw [memSteps_fromRead (v := v)]
  · simp [hq]
  · rfl
  · rfl
  · exact hv

end memRuns

/-- Settles O31: the re-check at M2 finds both lines active, or one of them not, and each outcome is its
run in closed form. -/
theorem memoryRunOutcomes : Obligations.MemoryRunOutcomes := by
  unfold Obligations.MemoryRunOutcomes
  intro s r w c hq hp hi
  have hout := memOutcome_memToCheck hi
  refine ⟨fun hm hr => ?memrd, fun hm hr => ?rdInactive, fun hm => ?mreqInactive⟩
  case memrd =>
    rw [← bankIdx_eq_mod]
    exact congrArg Host.Outcome.next (memRun_memrd hq hp hi hm hr rfl)
  case rdInactive =>
    have ho : memOutcome (memToCheck s) = .abortRdInactive := by simp [hout, hm, hr]
    have hrun := memRun_abort hq hp hi ho (.inr hr)
    rw [hm, hr] at hrun
    exact congrArg Host.Outcome.next hrun
  case mreqInactive =>
    have ho : memOutcome (memToCheck s) = .abortMreqInactive := by simp [hout, hm]
    have hrun := memRun_abort hq hp hi ho (.inl hm)
    rw [hm] at hrun
    exact congrArg Host.Outcome.next hrun

end Sys2Proof.Machine
end

section
/-! PROOFS. The mux arbiter (40_mux_arbiter.md): what each micro-operation makes of the state, as one
equation for each shared operation; the byte a sample takes; the CPU's data bus. -/

namespace Sys2Proof.Machine

/-! ### Who drives the CPU's data bus (R98, R99) -/

section bus
variable {s t : State}

theorem engineDrives_iff :
    engineDrives s = true ↔ s.arb.mux = .dataOut ∧ s.arb.shMode = .output := by
  simp [engineDrives]

theorem engineDrives_eq_false_iff :
    engineDrives s = false ↔ ¬(s.arb.mux = .dataOut ∧ s.arb.shMode = .output) := by
  rw [← engineDrives_iff, Bool.not_eq_true]

theorem contended_iff : contended s = true ↔
    (s.arb.mux = .dataOut ∧ s.arb.shMode = .output) ∧ s.env.dcpuDrv = true := by
  rw [contended, Bool.and_eq_true, engineDrives_iff]

/-- Where the overlap of the two drives begins, a contention is recorded, and nothing else is done. -/
theorem noteContention_eq {P : Prop} [Decidable P] (h : contended t = true ∧ ¬contended s = true ↔ P) :
    noteContention s t =
      { t with book.hist := t.book.hist ++ if P then [.contention] else [] } := by
  have hbegins : (contended t && !contended s) = true ↔ P := by simpa using h
  by_cases hP : P
  · simp [noteContention, hbegins.2 hP, hP, emit]
  · simp [noteContention, hbegins, hP]

theorem cpuBus_engine (he : engineDrives s = true) (hc : s.env.dcpuDrv = false) :
    cpuBus s = (s.arb.shOut, s) := by
  simp [cpuBus, he, hc]

theorem cpuBus_cpu (he : engineDrives s = false) (hc : s.env.dcpuDrv = true) :
    cpuBus s = (s.env.dcpu, s) := by
  simp [cpuBus, he, hc]

/-- With both drivers or none, a reader gets any byte (decision D27). -/
theorem cpuBus_unresolved (h : engineDrives s = s.env.dcpuDrv) : cpuBus s = draw8 s := by
  cases hc : s.env.dcpuDrv <;> simp [cpuBus, h, hc]

end bus

/-- A step in which the CPU samples: the byte it gets goes to its latch (R98). -/
theorem step_cpuSample {s t : State} {v : Byte} {rest : List Turn}
    (hs : s.book.script = .cpuSample :: rest) (hb : cpuBus (setScript rest s) = (v, t)) :
    step s = .next { t with book.cpuLatch := v } := by
  simp [step, hs, cpuSampleStep, hb]

/-- Settles O10: who drives the bus decides what the reader gets, in each of the four cases. -/
theorem cpuSamplesTheResolvedBus : Obligations.CpuSamplesTheResolvedBus := by
  unfold Obligations.CpuSamplesTheResolvedBus
  intro s rest hs
  refine ⟨fun hm ho hc => ?engine, fun hn hc => ?cpu, fun hn hc => ?nobody, fun hm ho hc => ?both⟩
  case engine => exact step_cpuSample hs (cpuBus_engine (engineDrives_iff.2 ⟨hm, ho⟩) hc)
  case cpu => exact step_cpuSample hs (cpuBus_cpu (engineDrives_eq_false_iff.2 hn) hc)
  case nobody =>
    exact step_cpuSample hs (cpuBus_unresolved ((engineDrives_eq_false_iff.2 hn).trans hc.symm))
  case both =>
    exact step_cpuSample hs (cpuBus_unresolved ((engineDrives_iff.2 ⟨hm, ho⟩).trans hc.symm))

/-! ### The operations on the arbiter (R90 to R94) -/

/-- `SELP p` begins a contention where it routes the engine's driving pins outward against the CPU. -/
theorem selectPhase_eq (p : MuxState) (s : State) :
    selectPhase p s = { s with
      arb.mux := p, arb.settled := false
      book.hist := s.book.hist ++
        if p = .dataOut ∧ s.arb.shMode = .output ∧ s.env.dcpuDrv = true ∧ s.arb.mux ≠ .dataOut
          then [.contention] else [] } := by
  refine noteContention_eq ?_
  rw [contended_iff, contended_iff]
  tauto

/-- `NEUT` ends a drive of the CPU's data bus. -/
theorem neutral_eq (s : State) :
    neutral s = { s with
      arb.mux := .neutral, arb.settled := false
      book.hist := s.book.hist ++
        if s.arb.mux = .dataOut ∧ s.arb.shMode = .output then [.release] else [] } := by
  by_cases h : s.arb.mux = .dataOut ∧ s.arb.shMode = .output
  · simp [neutral, engineDrives_iff.2 h, h, emit]
  · simp [neutral, engineDrives_eq_false_iff.2 h, h]

/-- `SHOUT v` begins a drive where the Data channel is routed outward, and a contention where the
engine did not drive against the CPU before. -/
theorem driveLines_eq (v : Byte) (s : State) :
    driveLines v s = { s with
      arb.shOut := v, arb.shMode := .output
      book.hist := s.book.hist ++ (if s.arb.mux = .dataOut then [.drive s.regs.ea v] else []) ++
        if s.arb.mux = .dataOut ∧ s.env.dcpuDrv = true ∧ s.arb.shMode = .input
          then [.contention] else [] } := by
  have hdrive : driveLines v s = noteContention s { s with
      arb.shOut := v, arb.shMode := .output
      book.hist := s.book.hist ++ if s.arb.mux = .dataOut then [.drive s.regs.ea v] else [] } := by
    by_cases hm : s.arb.mux = .dataOut <;> simp [driveLines, engineDrives, hm, emit]
  have hmode : s.arb.shMode = .input ↔ s.arb.shMode ≠ .output := by cases s.arb.shMode <;> simp
  rw [hdrive]
  refine noteContention_eq ?_
  rw [contended_iff, contended_iff, hmode]
  tauto

/-- `SELP DataOut` and `SHOUT v` in one step: a contention follows the drive where the engine did not
drive before and the CPU does. -/
theorem driveData_eq_general (v : Byte) (s : State) :
    driveData v s = { s with
      arb := { mux := .dataOut, settled := false, shOut := v, shMode := .output }
      book.hist := s.book.hist ++ [.drive s.regs.ea v] ++
        if s.env.dcpuDrv = true ∧ ¬(s.arb.mux = .dataOut ∧ s.arb.shMode = .output)
          then [.contention] else [] } := by
  refine noteContention_eq ?_
  rw [contended_iff, contended_iff, emit_arb, emit_env]
  tauto

/-- Settles O11: the words are `CtlEncode`'s, and of the four phases only DataOut can begin a
contention. -/
theorem selpRoutesOneChannel : Obligations.SelpRoutesOneChannel := by
  unfold Obligations.SelpRoutesOneChannel
  refine ⟨by decide, fun s => ?_⟩
  have hin {p : MuxState} (hp : p ≠ .dataOut) :=
    congrArg (Host.Outcome.next (φ := Fault) (ρ := Refusal)) (selectPhase_input hp s)
  refine ⟨hin (by decide), hin (by decide), hin (by decide), selectPhase .dataOut s, rfl, ?out⟩
  case out => rw [selectPhase_eq]

/-- Settles O12: a drive of the data bus ends at `NEUT`; the two others write one field. -/
theorem neutShinSettleResults : Obligations.NeutShinSettleResults := by
  unfold Obligations.NeutShinSettleResults
  exact ⟨rfl, fun s => ⟨congrArg Host.Outcome.next (neutral_eq s), rfl, fun _ => rfl⟩⟩

/-- A step of a running memory handler is that of its label. -/
theorem exec_memcyc_of_label {s : State} {l : MemLabel} (h : s.sequencer = .mem l) :
    exec .memcyc s = .next (memLabel l s) := by
  simp [exec, execMemcyc, h]

/-- Settles O13: the equations of `driveLines` and of `driveData`, which is M5a's step. -/
theorem shoutDrivesTheSharedLines : Obligations.ShoutDrivesTheSharedLines := by
  unfold Obligations.ShoutDrivesTheSharedLines
  refine ⟨fun s v => ⟨driveLines v s, rfl, ?shout⟩, fun s hq => ?m5a⟩
  case shout => rw [driveLines_eq]
  case m5a =>
    rw [exec_memcyc_of_label hq, memLabel, driveData_eq_general]
    exact ⟨_, _, rfl, rfl, List.append_assoc _ _ _⟩

/-- Settles O14: the histories of the same three equations. -/
theorem drivesAndContentionsAreRecorded : Obligations.DrivesAndContentionsAreRecorded := by
  unfold Obligations.DrivesAndContentionsAreRecorded
  refine fun s v => ⟨?selp, ?shout, fun hq => ?m5a⟩
  case selp =>
    rintro _ ⟨⟩
    simp [selectPhase_eq]
  case shout =>
    rintro _ ⟨⟩
    rw [driveLines_eq]
  case m5a =>
    rw [exec_memcyc_of_label hq]
    rintro _ ⟨⟩
    rw [memLabel, driveData_eq_general]
    rfl

/-! ### Sampling (R95, R96) -/

section sampling
variable {s : State} {v : Byte} {k : Nat}

/-- Shared lines that no channel drives inward carry any byte. -/
theorem sampled_floating (hi : s.arb.shMode = .input)
    (hm : s.arb.mux = .neutral ∨ s.arb.mux = .dataOut) : sampled s = draw8 s := by
  rcases hm with hm | hm <;> simp [sampled, sharedIn, hi, hm]

/-- Before a settle has completed a sample is any byte. -/
theorem sampled_unsettled (h : s.arb.settled = false) : sampled s = draw8 s := by
  simp [sampled, h]

/-- `SAMP` writes the byte it takes to the register named, and records it. -/
theorem exec_samp (r : SampReg) (h : sampled s = (v, { s with book.draws := s.book.draws + k })) :
    exec (.samp r) s = .next (writeSampled r v { s with
      book.hist := s.book.hist ++ [.sample s.arb.mux v], book.draws := s.book.draws + k }) := by
  simp [exec, execSamp, sample, h, emit]

/-- The registers after a `SAMP`: only the one named takes the byte, and `ea` with the high one. -/
theorem sample_regs (r : SampReg) (s : State) :
    (sample r s).regs = (writeSampled r (sampled s).1 s).regs := by
  cases r <;> rcases sampled_state s with h | h <;> simp [sample, writeSampled, h]

end sampling

/-- Settles O15: the eight cases are those of what a sample takes; the byte then goes where the row
says. -/
theorem sampTakesTheSharedLines : Obligations.SampTakesTheSharedLines := by
  unfold Obligations.SampTakesTheSharedLines
  intro s v k hcase
  have htaken : sampled s = (v, { s with book.draws := s.book.draws + k }) := by
    rcases hcase with ⟨hs, ho, hm, rfl, rfl⟩ | ⟨-, ho, hm, rfl, rfl⟩ | ⟨hs, hi, hm, rfl, rfl⟩ |
      ⟨hs, hi, hm, rfl, rfl⟩ | ⟨hs, hi, hm, hd, rfl, rfl⟩ | ⟨hs, hi, hm, hd, rfl, rfl⟩ |
      ⟨-, hi, hm, rfl, rfl⟩ | ⟨hs, rfl, rfl⟩
    · exact sampled_driven hm ho hs
    · exact sampled_output_other hm ho
    · exact sampled_lowAddr hm hi hs
    · exact sampled_highAddr hm hi hs
    · exact sampled_data hm hi hs hd
    · exact sampled_dataIn (.inr ⟨hd, rfl, rfl⟩) rfl rfl hm hi hs
    · exact sampled_floating hi hm
    · exact sampled_unsettled hs
  exact ⟨exec_samp .addrLo htaken, exec_samp .addrHi htaken, exec_samp .data htaken⟩

/-! ### Testing (R97) -/

theorem nodup_linesOf (l : LineSet) : (linesOf l).Nodup := by
  obtain ⟨m, i, r, w⟩ := l
  revert m i r w
  decide

theorem mem_linesOf (l : LineSet) :
    (.mreq ∈ linesOf l ↔ l.mreq = true) ∧ (.iorq ∈ linesOf l ↔ l.iorq = true) ∧
      (.rd ∈ linesOf l ↔ l.rd = true) ∧ (.wr ∈ linesOf l ↔ l.wr = true) := by
  simp [linesOf]

/-- Settles O16: the list is that of the lines named, the level of each is the present one. -/
theorem tstReadsPresentLevels : Obligations.TstReadsPresentLevels := by
  unfold Obligations.TstReadsPresentLevels
  intro s l
  obtain ⟨hmreq, hiorq, hrd, hwr⟩ := mem_linesOf l
  refine ⟨_, linesOf l, rfl, rfl, nodup_linesOf l, hmreq, hiorq, hrd, hwr, lineLevel s, rfl, rfl,
    rfl, rfl, ?hist, rfl⟩
  case hist => simp [levelsOf]

/-! ### The frame of the ten micro-operations -/

@[simp] theorem driveLines_arb (v : Byte) (s : State) :
    (driveLines v s).arb = { s.arb with shOut := v, shMode := .output } := by
  rw [driveLines_eq]

/-- Of the registers a sample changes only the one named, and `ea` with the high address byte. -/
theorem sample_regs_frame (r : SampReg) (s : State) :
    (sample r s).regs.kind = s.regs.kind ∧
      (r ≠ .addrLo → (sample r s).regs.addrLo = s.regs.addrLo) ∧
      (r ≠ .addrHi → (sample r s).regs.addrHi = s.regs.addrHi ∧ (sample r s).regs.ea = s.regs.ea) ∧
      (r ≠ .data → (sample r s).regs.data = s.regs.data) := by
  rw [sample_regs]
  cases r <;> simp [writeSampled]

/-- The ten micro-operations (R90 to R97). -/
def MicroOp (i : Instr) : Prop :=
  i = .selpLowAddrIn ∨ i = .selpHighAddrIn ∨ i = .selpDataIn ∨ i = .selpDataOut ∨ i = .neut ∨
    (∃ k, i = .settle k) ∨ i = .shin ∨ (∃ v, i = .shout v) ∨ (∃ r, i = .samp r) ∨ ∃ l, i = .tst l

namespace MicroOp
variable {s t : State} {i : Instr}

/-- The footprints of the ten, read off the table: the arbiter and the history, or what a sample or a
test writes. -/
theorem writes_subset (hi : MicroOp i) :
    writes i ⊆ [.arb, .hist] ∨ (∃ r, i = .samp r) ∨ ∃ l, i = .tst l := by
  rcases hi with rfl | rfl | rfl | rfl | rfl | ⟨_, rfl⟩ | rfl | ⟨_, rfl⟩ | ⟨_, rfl⟩ | ⟨_, rfl⟩ <;>
    simp

/-- All that a micro-operation may write. -/
theorem touches (hi : MicroOp i) (h : exec i s = .next t) :
    Touches [.arb, .regs, .ret, .hist, .draws] s t := by
  have hfoot := exec_touches i s t h
  rcases hi.writes_subset with hsub | ⟨r, rfl⟩ | ⟨l, rfl⟩
  · exact (hfoot.mono hsub).mono
  · exact Touches.mono (ds := [.regs, .hist, .draws]) hfoot
  · exact Touches.mono (ds := [.ret, .hist]) hfoot

theorem ret_kept (hi : MicroOp i) (h : exec i s = .next t) (hn : ∀ l, i ≠ .tst l) :
    t.host.ret = s.host.ret := by
  refine exec_same (c := .ret) h ?_
  rcases hi.writes_subset with hsub | ⟨r, rfl⟩ | ⟨l, rfl⟩
  · exact fun hc => by simpa using hsub hc
  · simp
  · exact absurd rfl (hn l)

theorem regs_kept (hi : MicroOp i) (h : exec i s = .next t) (hn : ∀ r, i ≠ .samp r) :
    t.regs = s.regs := by
  refine exec_same (c := .regs) h ?_
  rcases hi.writes_subset with hsub | ⟨r, rfl⟩ | ⟨l, rfl⟩
  · exact fun hc => by simpa using hsub hc
  · exact absurd rfl (hn r)
  · simp

/-- What becomes of the single registers. -/
theorem regs_frame (hi : MicroOp i) (h : exec i s = .next t) :
    t.regs.kind = s.regs.kind ∧ (i ≠ .samp .addrLo → t.regs.addrLo = s.regs.addrLo) ∧
      (i ≠ .samp .addrHi → t.regs.addrHi = s.regs.addrHi ∧ t.regs.ea = s.regs.ea) ∧
      (i ≠ .samp .data → t.regs.data = s.regs.data) := by
  by_cases hr : ∃ r, i = .samp r
  · obtain ⟨r, rfl⟩ := hr
    cases h
    simpa using sample_regs_frame r s
  · simp [hi.regs_kept h (not_exists.1 hr)]

/-- Only `SHIN` and `SHOUT` change the mode of the shared lines. -/
theorem shMode_kept (hi : MicroOp i) (h : exec i s = .next t) (hin : i ≠ .shin)
    (hout : ∀ v, i ≠ .shout v) : t.arb.shMode = s.arb.shMode := by
  rcases hi with rfl | rfl | rfl | rfl | rfl | ⟨_, rfl⟩ | rfl | ⟨v, rfl⟩ | ⟨_, rfl⟩ | ⟨_, rfl⟩ <;>
    cases h <;> simp at hin hout ⊢

/-- Only `SHOUT` changes the byte presented on the shared lines. -/
theorem shOut_kept (hi : MicroOp i) (h : exec i s = .next t) (hout : ∀ v, i ≠ .shout v) :
    t.arb.shOut = s.arb.shOut := by
  rcases hi with rfl | rfl | rfl | rfl | rfl | ⟨_, rfl⟩ | rfl | ⟨v, rfl⟩ | ⟨_, rfl⟩ | ⟨_, rfl⟩ <;>
    cases h <;> simp at hout ⊢

end MicroOp

/-- Settles O17: the components by the footprint table, the single fields of the registers and of the
arbiter by the lemmas on them. -/
theorem microOperationFrame : Obligations.MicroOperationFrame := by
  unfold Obligations.MicroOperationFrame
  intro s t i hi h
  replace hi : MicroOp i := hi
  have same {c : Component} (hc : c ∉ [Component.arb, .regs, .ret, .hist, .draws] := by decide) :
      Same s t c := hi.touches h c hc
  obtain ⟨hkind, hlo, hhi, hdata⟩ := hi.regs_frame h
  refine ⟨same (c := .env), same (c := .sequencer), ?edge, ?pause, same (c := .idle),
    same (c := .curBank), same (c := .name), ?bank, ?scratch, ?host, hi.ret_kept h, hi.regs_kept h,
    hkind, hlo, hhi, hdata, ?arb, hi.shMode_kept h, hi.shOut_kept h, ?mux, same (c := .script),
    same (c := .cpuLatch)⟩
  case edge =>
    exact (EdgeDetector.mk.injEq ..).mpr ⟨same (c := .pendIo), same (c := .pendMem),
      same (c := .prevIorq), same (c := .prevMreq)⟩
  case pause => exact (PauseFlags.mk.injEq ..).mpr ⟨same (c := .req), same (c := .ack)⟩
  case bank => exact bankByte_congr (same (c := .bank))
  case scratch =>
    obtain ⟨hbytes, hfill⟩ := same (c := .scratch)
    exact scratchByte_congr hbytes hfill
  case host =>
    exact (HostSide.mk.injEq ..).mpr ⟨same (c := .activity), same (c := .dec), rfl,
      same (c := .fileOut), same (c := .storage)⟩
  case arb => rintro (⟨r, rfl⟩ | ⟨l, rfl⟩) <;> exact exec_same (c := .arb) h (by simp)
  case mux => rintro (rfl | ⟨v, rfl⟩ | ⟨k, rfl⟩) <;> cases h <;> simp

end Sys2Proof.Machine
end

section
/-! PROOFS. The I/O-cycle handler (41_io_cycle.md): its entry, its labels one by one, and the frame of
both handlers and of the whole-run outcomes. -/

namespace Sys2Proof.Machine

/-! ### Entry (R101, R109) -/

/-- A step of a running I/O handler is that of its label. -/
theorem exec_iocyc_of_label {s : State} {l : IoLabel} (h : s.sequencer = .io l) :
    exec .iocyc s = .next (ioLabel l s) := by
  simp [exec, execIocyc, h]

/-- With no handler running, `IOCYC` on a latched edge is the entry. -/
theorem exec_iocyc_of_pending {s : State} (hq : s.sequencer = .idle) (hp : s.edge.pendIo = true) :
    exec .iocyc s = .next (enterHandler .io s) := by
  simp [exec, execIocyc, hq, hp]

/-- As `exec_iocyc_of_pending`, for the memory handler. -/
theorem exec_memcyc_of_pending {s : State} (hq : s.sequencer = .idle) (hp : s.edge.pendMem = true) :
    exec .memcyc s = .next (enterHandler .mem s) := by
  simp [exec, execMemcyc, hq, hp]

/-- Settles O23: the entries by the equations of `enterHandler`; the first labels only move on. -/
theorem handlersEnterAtTheirFirstLabel : Obligations.HandlersEnterAtTheirFirstLabel := by
  unfold Obligations.HandlersEnterAtTheirFirstLabel
  exact fun s => ⟨exec_iocyc_of_pending, exec_memcyc_of_pending, exec_iocyc_of_label,
    exec_memcyc_of_label⟩

/-! ### The labels (R102 to R108) -/

section labels
variable {s t : State} {l : IoLabel} {q : Sequencer} {p : MuxState} {r : SampReg} {v : Byte} {k : Nat}

/-- A label that selects a phase to sample: the lines take it, unsettled, and the handler moves on. -/
theorem exec_iocyc_select (hq : s.sequencer = .io l)
    (hl : ioLabel l s = goto q (selectPhase p s)) (hp : p ≠ .dataOut) :
    exec .iocyc s = .next { s with arb.mux := p, arb.settled := false, sequencer := q } := by
  rw [exec_iocyc_of_label hq, hl, selectPhase_input hp]
  rfl

/-- A label that samples: the handler moves on from the state that `SAMP` gives. -/
theorem exec_iocyc_of_samp (hq : s.sequencer = .io l) (hl : ioLabel l s = goto q (sample r s))
    (h : exec (.samp r) s = .next t) : exec .iocyc s = .next { t with sequencer := q } := by
  cases h
  rw [exec_iocyc_of_label hq, hl]
  rfl

/-- As `exec_iocyc_of_samp`, when the byte the sample takes is known. -/
theorem exec_iocyc_sample (hq : s.sequencer = .io l) (hl : ioLabel l s = goto q (sample r s))
    (h : sampled s = (v, { s with book.draws := s.book.draws + k })) :
    exec .iocyc s = .next { writeSampled r v { s with
      book.hist := s.book.hist ++ [.sample s.arb.mux v], book.draws := s.book.draws + k } with
      sequencer := q } :=
  exec_iocyc_of_samp hq hl (exec_samp r h)

end labels

/-- Settles O24: the labels select, wait, release and sample; what a settled sample takes of each phase
is known, and in any other state `SAMP` gives it. -/
theorem ioHandlerSamplesTheAddress : Obligations.IoHandlerSamplesTheAddress := by
  unfold Obligations.IoHandlerSamplesTheAddress
  intro s
  refine ⟨fun hq => ?io1a, exec_iocyc_of_label, exec_iocyc_of_label, fun hq hm hi hs => ?io1d,
    fun hq t ht => ?io1dAny, fun hq => ?io2a, exec_iocyc_of_label, fun hq hm hi hs => ?io2c,
    fun hq t ht => ?io2cAny⟩
  case io1a => exact exec_iocyc_select hq rfl (by decide)
  case io1d =>
    rw [exec_iocyc_sample (k := 0) hq rfl (sampled_lowAddr hm hi hs), hm]
    rfl
  case io1dAny => exact exec_iocyc_of_samp hq rfl ht
  case io2a => exact exec_iocyc_select hq rfl (by decide)
  case io2c =>
    rw [exec_iocyc_sample (k := 0) hq rfl (sampled_highAddr hm hi hs), hm]
    rfl
  case io2cAny => exact exec_iocyc_of_samp hq rfl ht

/-- The direction test sees the present level of `IORQ_n` alone (R104). -/
theorem ioLabel_io3 (s : State) : ioLabel .io3 s =
    if s.env.iorqN = .low then
      { s with sequencer := .io .io3a1, book.hist := s.book.hist ++ [.test .iorq .low] }
    else
      { s with sequencer := .io .io4, book.hist := s.book.hist ++ [.test .iorq .high, .noWrite] } := by
  cases h : s.env.iorqN <;>
    simp [ioLabel, Config.ioDirLine, Config.ioDirWriteLevel, lineLevel, h, writeIndicated, goto, emit,
      emitTests, levelsOf]

/-- Settles O25: the test by its two levels; the data byte is the CPU's, or any if it drives none. -/
theorem ioHandlerTestsDirectionAndSamplesData : Obligations.IoHandlerTestsDirectionAndSamplesData := by
  unfold Obligations.IoHandlerTestsDirectionAndSamplesData
  intro s
  refine ⟨fun hq hw => ?write, fun hq hw => ?noWrite, fun hq => ?io3a1, exec_iocyc_of_label,
    fun hq hm hi hs hd => ?driven, fun hq hm hi hs hd => ?floating, fun hq t ht => ?io3a3Any⟩
  case write => rw [exec_iocyc_of_label hq, ioLabel_io3, if_pos hw]
  case noWrite => rw [exec_iocyc_of_label hq, ioLabel_io3, if_neg (by simp [hw])]
  case io3a1 => exact exec_iocyc_select hq rfl (by decide)
  case driven =>
    have hv : CpuByte s s.env.dcpu 0 := .inl ⟨hd, rfl, rfl⟩
    rw [exec_iocyc_sample hq rfl (sampled_dataIn hv rfl rfl hm hi hs), hm]
    rfl
  case floating =>
    have hv : CpuByte s (Config.draw8 s.book.draws) 1 := .inr ⟨hd, rfl, rfl⟩
    rw [exec_iocyc_sample hq rfl (sampled_dataIn hv rfl rfl hm hi hs), hm]
    rfl
  case io3a3Any => exact exec_iocyc_of_samp hq rfl ht

/-- At the console's address the byte goes to the console alone (R106). -/
theorem ioLabel_io3bc_console {s : State} (h : s.regs.ea = 0x0040) : ioLabel .io3bc s = { s with
    sequencer := .io .io4, book.hist := s.book.hist ++ [.console s.regs.data] } := by
  have hc : consoleHit s.regs.ea = true := beq_iff_eq.2 h
  simp [ioLabel, hc, goto, emit]

/-- At any other address the byte goes to the current bank (R107). -/
theorem ioLabel_io3bc_store {s : State} (h : s.regs.ea ≠ 0x0040) : ioLabel .io3bc s =
    goto (.io .io4) (bankWrite s.store.curBank s.regs.ea s.regs.data s) := by
  have hc : consoleHit s.regs.ea = false := beq_eq_false_iff_ne.2 h
  simp [ioLabel, hc]

/-- The exit: `NEUT`, then the return (R108). -/
theorem ioLabel_io4 {s : State} (h : s.sequencer = .io .io4) : ioLabel .io4 s = { s with
    arb.mux := .neutral, arb.settled := false, sequencer := .idle
    book.hist := s.book.hist ++
      (if s.arb.mux = .dataOut ∧ s.arb.shMode = .output then [.release] else []) ++ [.exit .io] } := by
  simp [ioLabel, neutral_eq, leaveHandler, h, emit]

/-- Settles O26: the two forms of IO3bc, of which only the storing one writes a byte, and the exit. -/
theorem ioHandlerWritesConsoleOrBankThenExits :
    Obligations.IoHandlerWritesConsoleOrBankThenExits := by
  unfold Obligations.IoHandlerWritesConsoleOrBankThenExits
  intro s
  refine ⟨fun hq ha => ?console, fun hq ha => ?store, fun hq => ?exit⟩
  case console => rw [exec_iocyc_of_label hq, ioLabel_io3bc_console ha]
  case store =>
    refine ⟨_, exec_iocyc_of_label hq, ?_⟩
    rw [ioLabel_io3bc_store ha, ← bankIdx_eq_mod]
    exact ⟨rfl, bankByte_setBankByte_same s _ _ _, bankKeptBut_setBankByte _ _ _ s⟩
  case exit => rw [exec_iocyc_of_label hq, ioLabel_io4 hq]

/-! ### The frame of the handlers and of the whole-run outcomes -/

/-- The handlers' steps and the six outcomes of a whole run (R75). -/
def HandlerOp (i : Instr) : Prop :=
  i = .iocyc ∨ i = .memcyc ∨ (∃ w c, i = .memrd w c) ∨ (∃ w c, i = .memAbortRdInactive w c) ∨
    (∃ r w c, i = .memAbortMreqInactive r w c) ∨ (∃ m r, i = .iowrMem m r) ∨
    (∃ m r, i = .iowrCon m r) ∨ ∃ m r c, i = .ioNowr m r c

/-- A bank whose bytes are all kept keeps all but a given one. -/
theorem BankKept.but {s t : State} (h : BankKept s t) (b : BankNumber) (i : BankIndex) :
    BankKeptBut b i s t := fun b' i' _ => h b' i'

/-- Of the bank IO3bc writes at most the byte at `ea` (R106, R107). -/
theorem ioLabel_io3bc_bankKeptBut (s : State) :
    BankKeptBut s.store.curBank (bankIdx s.regs.ea) s (ioLabel .io3bc s) := by
  by_cases ha : s.regs.ea = 0x0040
  · rw [ioLabel_io3bc_console ha]
    exact BankKept.but (fun _ _ => rfl) _ _
  · rw [ioLabel_io3bc_store ha]
    exact bankKeptBut_setBankByte _ _ _ s

/-- At every other label the I/O handler writes no bank byte. -/
theorem exec_iocyc_bank {s t : State} (hq : s.sequencer ≠ .io .io3bc)
    (h : exec .iocyc s = .next t) : t.store.bank = s.store.bank := by
  refine ensures_iocyc (P := fun u => u.store.bank = s.store.bank) rfl (fun _ _ => rfl)
    (fun l hl => ?_) t h
  have hfoot : Touches handlerCells s (ioLabel l s) :=
    touches_ioLabel fun hbc => absurd (hbc ▸ hl) hq
  exact hfoot .bank (by decide)

/-- Whether the CPU drives or not, its data bus carries some byte. -/
theorem exists_cpuByte (s : State) : ∃ v k, CpuByte s v k := by
  cases hd : s.env.dcpuDrv
  · exact ⟨_, _, .inr ⟨hd, rfl, rfl⟩⟩
  · exact ⟨_, _, .inl ⟨hd, rfl, rfl⟩⟩

/-- A run classified as a write passes, or it serves a latched edge with `IORQ_n` low and another address
than the console's (R75). -/
theorem ioRun_iowrMem_cases (s : State) : ioRun .iowrMem s = s ∨
    s.sequencer = .idle ∧ s.edge.pendIo = true ∧ s.env.iorqN = .low ∧ s.env.a ≠ 0x0040 := by
  rcases ioRun_cases .iowrMem s with hrun | ⟨hq, hout, -⟩
  · exact .inl hrun
  cases hp : s.edge.pendIo
  · left
    simp [ioRun, hq, hp]
  · right
    rw [ioOutcome_ioToTest] at hout
    cases hw : s.env.iorqN with
    | high => simp [hw] at hout
    | low => exact ⟨hq, rfl, rfl, fun ha => by simp [hw, ha] at hout⟩

/-- Of the bank a whole run classified as a write writes at most the byte at `A` (R107). -/
theorem ioRun_iowrMem_bankKeptBut (s : State) :
    BankKeptBut s.store.curBank (bankIdx s.env.a) s (ioRun .iowrMem s) := by
  rcases ioRun_iowrMem_cases s with hrun | ⟨hq, hp, hw, ha⟩
  · rw [hrun]
    exact BankKept.but (fun _ _ => rfl) _ _
  · obtain ⟨v, k, hv⟩ := exists_cpuByte s
    rw [ioRun_iowrMem hq hp hv hw ha]
    exact bankKeptBut_setBankByte _ _ v s

namespace HandlerOp
variable {s t : State} {i : Instr}

/-- All that the handlers and the whole runs may write. -/
theorem writes_subset (hi : HandlerOp i) :
    writes i ⊆ .bank :: .pendIo :: .pendMem :: handlerCells := by
  rcases hi with rfl | rfl | ⟨_, _, rfl⟩ | ⟨_, _, rfl⟩ | ⟨_, _, _, rfl⟩ | ⟨_, _, rfl⟩ | ⟨_, _, rfl⟩ |
    ⟨_, _, _, rfl⟩ <;> simp

/-- Only IO3bc and a run classified as a write may write the bank. -/
theorem bankKept (hi : HandlerOp i) (h : exec i s = .next t)
    (hbc : i ≠ .iocyc ∨ s.sequencer ≠ .io .io3bc) (hw : ∀ m r, i ≠ .iowrMem m r) : BankKept s t := by
  refine bankByte_congr ?_
  by_cases hb : .bank ∈ writes i
  · rcases writer_of_bank hb with rfl | ⟨m, r, rfl⟩ | ⟨_, _, _, rfl⟩ | ⟨_, _, _, rfl⟩ | ⟨_, rfl⟩ |
      ⟨_, rfl⟩
    · exact exec_iocyc_bank (hbc.resolve_left (· rfl)) h
    · exact absurd rfl (hw m r)
    all_goals simp [HandlerOp] at hi
  · exact exec_same (c := .bank) h hb

end HandlerOp

/-- Settles O34: the components by the footprint table; of the bank, what IO3bc and a whole run
classified as a write may change. -/
theorem handlerFrame : Obligations.HandlerFrame := by
  unfold Obligations.HandlerFrame
  intro s t i hi h
  replace hi : HandlerOp i := hi
  have same (c) (hc : c ∉ Component.bank :: .pendIo :: .pendMem :: handlerCells) : Same s t c :=
    exec_same h fun hm => hc (hi.writes_subset hm)
  refine ⟨same .env (by decide), same .curBank (by decide), same .name (by decide), ?scratch, ?pause,
    same .idle (by decide), ?host, same .prevIorq (by decide), same .prevMreq (by decide),
    same .script (by decide), same .cpuLatch (by decide), ?io3bc, hi.bankKept h, ?iowrMem⟩
  case scratch =>
    obtain ⟨hbytes, hfill⟩ := same .scratch (by decide)
    exact scratchByte_congr hbytes hfill
  case pause =>
    exact (PauseFlags.mk.injEq ..).mpr ⟨same .req (by decide), same .ack (by decide)⟩
  case host =>
    exact (HostSide.mk.injEq ..).mpr ⟨same .activity (by decide), same .dec (by decide),
      same .ret (by decide), same .fileOut (by decide), same .storage (by decide)⟩
  case io3bc =>
    rintro rfl hq
    rw [exec_iocyc_of_label hq] at h
    cases h
    exact ioLabel_io3bc_bankKeptBut s
  case iowrMem =>
    rintro ⟨m, r, rfl⟩
    cases h
    exact ioRun_iowrMem_bankKeptBut s

end Sys2Proof.Machine
end

section
/-! PROOFS. The memory-cycle handler (42_memory_cycle.md): its labels one by one. A running handler's
step is `memLabel`'s (`exec_memcyc_of_label`); the lemmas here say what the micro-operations make of the
state when the handler then moves on, or returns. -/

namespace Sys2Proof.Machine

/-! ### A micro-operation and the move to the next label -/

section moves
variable {s t : State} {q : Sequencer} {p : MuxState} {r : SampReg}

theorem goto_selectPhase (hp : p ≠ .dataOut) :
    goto q (selectPhase p s) = { s with arb.mux := p, arb.settled := false, sequencer := q } := by
  rw [selectPhase_input hp]
  rfl

theorem goto_neutral : goto q (neutral s) = { s with
    arb.mux := .neutral, arb.settled := false, sequencer := q
    book.hist := s.book.hist ++
      (if s.arb.mux = .dataOut ∧ s.arb.shMode = .output then [.release] else []) } := by
  rw [neutral_eq]
  rfl

theorem goto_sample (h : exec (.samp r) s = .next t) :
    goto q (sample r s) = { t with sequencer := q } := by
  cases h
  rfl

/-- The return from the memory handler (R170). -/
theorem leaveHandler_mem {l : MemLabel} (h : s.sequencer = .mem l) :
    leaveHandler s = { s with sequencer := .idle, book.hist := s.book.hist ++ [.exit .mem] } := by
  simp [leaveHandler, h, emit]

end moves

/-! ### The labels (R110 to R115) -/

/-- Settles O27: the labels select, wait, sample, go neutral and release; at M1c and M3c the known byte
is an instance of what `SAMP` gives in any state. -/
theorem memoryHandlerSamplesTheAddress : Obligations.MemoryHandlerSamplesTheAddress := by
  unfold Obligations.MemoryHandlerSamplesTheAddress
  intro s
  have m1c (hq : s.sequencer = .mem .m1c) (t) (ht : exec (.samp .addrLo) s = .next t) :
      exec .memcyc s = .next { t with sequencer := .mem .m1d } := by
    rw [exec_memcyc_of_label hq, memLabel, goto_sample ht]
  have m3c (hq : s.sequencer = .mem .m3c) (t) (ht : exec (.samp .addrHi) s = .next t) :
      exec .memcyc s = .next { t with sequencer := .mem .m3d } := by
    rw [exec_memcyc_of_label hq, memLabel, goto_sample ht]
  refine ⟨fun hq => ?m1a, exec_memcyc_of_label, fun hq hm hi hs => ?m1cSettled, m1c, fun hq => ?m1d,
    exec_memcyc_of_label, fun hq => ?m3a, exec_memcyc_of_label, fun hq hm hi hs => ?m3cSettled, m3c,
    fun hq => ?m3d⟩
  case m1a => rw [exec_memcyc_of_label hq, memLabel, goto_selectPhase (by decide)]
  case m1cSettled =>
    rw [m1c hq _ (exec_samp (k := 0) .addrLo (sampled_lowAddr hm hi hs)), hm]
    rfl
  case m1d => rw [exec_memcyc_of_label hq, memLabel, goto_neutral]
  case m3a => rw [exec_memcyc_of_label hq, memLabel, goto_selectPhase (by decide)]
  case m3cSettled =>
    rw [m3c hq _ (exec_samp (k := 0) .addrHi (sampled_highAddr hm hi hs)), hm]
    rfl
  case m3d => rw [exec_memcyc_of_label hq, memLabel, goto_neutral]

/-- The re-check finds both lines active, or the handler returns (R111). -/
theorem memLabel_m2 {s : State} (hq : s.sequencer = .mem .m2) : memLabel .m2 s =
    if s.env.mreqN = .low ∧ s.env.rdN = .low then
      { s with
        regs.kind := .memRead, sequencer := .mem .m3a
        book.hist := s.book.hist ++ [.test .mreq s.env.mreqN, .test .rd s.env.rdN] }
    else
      { s with
        regs.kind := .memUnserviced, sequencer := .idle
        book.hist := s.book.hist ++ [.test .mreq s.env.mreqN, .test .rd s.env.rdN] ++
          [.abort s.regs.addrLo, .exit .mem] } := by
  have hactive : (lineActive s .mreq && lineActive s .rd) = true ↔
      s.env.mreqN = .low ∧ s.env.rdN = .low := by
    simp [lineActive, lineLevel, Config.activeLevel]
  by_cases h : s.env.mreqN = .low ∧ s.env.rdN = .low
  · rw [memLabel, if_pos (hactive.2 h), if_pos h]
    rfl
  · rw [memLabel, if_neg (mt hactive.1 h), if_neg h, leaveHandler_mem (l := .m2)]
    · simp [emit, emitTests, levelsOf, lineLevel]
    · exact hq

/-- Settles O28: the two outcomes of the re-check, the test of `MREQ_n` being recorded first. -/
theorem memoryHandlerAbortsWhenALineIsInactive :
    Obligations.MemoryHandlerAbortsWhenALineIsInactive := by
  unfold Obligations.MemoryHandlerAbortsWhenALineIsInactive
  intro s hq
  rw [exec_memcyc_of_label hq, memLabel_m2 hq]
  refine ⟨_, .inl rfl, fun hl => ?abort, fun hm hr => ?read⟩
  case abort =>
    have hinactive : ¬(s.env.mreqN = .low ∧ s.env.rdN = .low) := by
      rintro ⟨hm, hr⟩
      simp [hm, hr] at hl
    rw [if_neg hinactive]
  case read => rw [if_pos ⟨hm, hr⟩]

/-- The drive is recorded first, then the contention it may begin (R94, R99). -/
theorem memLabel_m5a (s : State) : memLabel .m5a s = { s with
    arb := { mux := .dataOut, shMode := .output, shOut := s.regs.data, settled := false }
    sequencer := .mem .m5b
    book.hist := s.book.hist ++ .drive s.regs.ea s.regs.data ::
      if s.env.dcpuDrv = true ∧ ¬(s.arb.mux = .dataOut ∧ s.arb.shMode = .output)
        then [.contention] else [] } := by
  rw [memLabel, driveData_eq_general, List.append_assoc]
  rfl

/-- Settles O29: the read is of the byte at `bankIdx ea`; the contention that may follow M5a's
drive needs a driving CPU. -/
theorem memoryHandlerReadsAndDrives : Obligations.MemoryHandlerReadsAndDrives := by
  unfold Obligations.MemoryHandlerReadsAndDrives
  intro s
  rw [← bankIdx_eq_mod]
  refine ⟨fun hq v hv => ?m4, fun hq => ?m5a, exec_memcyc_of_label, fun hq => ?m5c, fun hq => ?m5d⟩
  case m4 =>
    rw [exec_memcyc_of_label hq, hv]
    rfl
  case m5a =>
    rw [exec_memcyc_of_label hq, memLabel_m5a]
    exact ⟨_, _, rfl, rfl, fun hd => if_neg (by simp [hd])⟩
  case m5c => rw [exec_memcyc_of_label hq, memLabel, goto_neutral]
  case m5d =>
    rw [exec_memcyc_of_label hq, memLabel, leaveHandler_mem (s := releaseLines s) hq]
    rfl

end Sys2Proof.Machine
end

section
/-! PROOFS. Runs under R160's premise `NoBusActivity` (46_pause_protocol.md): while the bus is silent a
turn of an agent is a step of the UI's own operation, or it leaves the host side and the bank store
alone. So a property of an operation under way is carried over the other agents' steps. -/

namespace Sys2Proof.Machine

/-! ### The history, and the edges on record -/

/-- From `s` to `t` the history grows at its end (R41), and a latch changes only if an edge is
recorded (R163). -/
def RecordsEdges (s t : State) : Prop :=
  s.book.hist <+: t.book.hist ∧
    ((∀ src, Event.edge src ∉ t.book.hist.drop s.book.hist.length) →
      t.edge.pendIo = s.edge.pendIo ∧ t.edge.pendMem = s.edge.pendMem)

section recordsEdges
variable {s t u : State}

/-- What leaves the history alone has it grow by nothing. -/
theorem Touches.hist_grows {cs : List Component} (h : Touches cs s t) (hh : Component.hist ∉ cs) :
    s.book.hist <+: t.book.hist :=
  have hkept : t.book.hist = s.book.hist := h _ hh
  ⟨[], by rw [List.append_nil, hkept]⟩

theorem RecordsEdges.trans (h : RecordsEdges s t) (h' : RecordsEdges t u) : RecordsEdges s u := by
  obtain ⟨⟨es, hes⟩, hkept⟩ := h
  obtain ⟨⟨fs, hfs⟩, hkept'⟩ := h'
  refine ⟨⟨es ++ fs, by rw [← hfs, ← hes, List.append_assoc]⟩, fun hn => ?_⟩
  rw [← hfs, List.drop_left] at hkept'
  rw [← hes, List.drop_left] at hkept
  rw [← hfs, ← hes, List.append_assoc, List.drop_left] at hn
  obtain ⟨hio, hmem⟩ := hkept fun src hm => hn src (List.mem_append_left _ hm)
  obtain ⟨hio', hmem'⟩ := hkept' fun src hm => hn src (List.mem_append_right _ hm)
  exact ⟨hio'.trans hio, hmem'.trans hmem⟩

/-- A step that keeps the latches records what it likes. -/
theorem RecordsEdges.of_same (hh : s.book.hist <+: t.book.hist) (hio : Same s t .pendIo)
    (hmem : Same s t .pendMem) : RecordsEdges s t := ⟨hh, fun _ => ⟨hio, hmem⟩⟩

/-- A step that records an edge may set a latch. -/
theorem RecordsEdges.of_edge {src : Source} (hh : t.book.hist = s.book.hist ++ [Event.edge src]) :
    RecordsEdges s t :=
  ⟨⟨_, hh.symm⟩, fun hn => absurd (by rw [hh, List.drop_left]; exact List.mem_singleton_self _)
    (hn src)⟩

/-- A step that writes neither the history nor a latch. -/
theorem RecordsEdges.of_touches {cs : List Component} (h : Touches cs s t)
    (hcs : ∀ c ∈ [Component.hist, .pendIo, .pendMem], c ∉ cs) : RecordsEdges s t :=
  .of_same (h.hist_grows (hcs _ (by decide))) (h _ (hcs _ (by decide))) (h _ (hcs _ (by decide)))

end recordsEdges

theorem recordsEdges_noteContention (s t : State) : RecordsEdges t (noteContention s t) := by
  refine .of_same ?_ (touches_noteContention s t _ (by decide))
    (touches_noteContention s t _ (by decide))
  unfold noteContention
  split
  · exact ⟨_, rfl⟩
  · exact ⟨[], List.append_nil _⟩

theorem recordsEdges_observeIorq (s : State) : RecordsEdges s (observeIorq s) := by
  unfold observeIorq
  split
  · exact .of_edge rfl
  · exact .of_same (t := { s with edge.prevIorq := _ }) ⟨[], List.append_nil _⟩ rfl rfl

theorem recordsEdges_observeMreq (s : State) : RecordsEdges s (observeMreq s) := by
  unfold observeMreq
  split
  · exact .of_edge rfl
  · exact .of_same (t := { s with edge.prevMreq := _ }) ⟨[], List.append_nil _⟩ rfl rfl

/-- The detector records every fall of an ENV step (R163). -/
theorem recordsEdges_envStep (c : EnvChange) (s : State) : RecordsEdges s (envStep c s) :=
  have hinputs : RecordsEdges s { s with env := changedInputs c s.env } :=
    .of_same ⟨[], List.append_nil _⟩ rfl rfl
  ((hinputs.trans (recordsEdges_noteContention s _)).trans (recordsEdges_observeMreq _)).trans
    (recordsEdges_observeIorq _)

/-! ### One turn while the bus is silent -/

/-- What the turns of the environment and of BUSIDLE may write, and the turn itself. -/
def otherCells : List Component :=
  [.env, .pendIo, .pendMem, .prevIorq, .prevMreq, .ack, .idle, .storage, .hist, .draws, .cpuLatch,
    .script]

theorem touches_setScript (ts : List Turn) (s : State) : Touches [.script] s (setScript ts s) := by
  intro c hc; cases c <;> simp_all [Same]

/-- The idle loop's operations write its place and the acknowledgment alone (R156 to R158). -/
theorem writes_of_busIdleNext {s : State} {i : Instr} (h : busIdleNext s = some i) :
    writes i ⊆ [Component.ack, .idle] := by
  unfold busIdleNext at h
  split at h
  · cases h
  · cases h
  · split at h <;> cases h <;> simp

/-- An operation that leaves the handlers and the schedule alone. -/
def LeavesBusAlone (i : Instr) : Prop :=
  Component.sequencer ∉ writes i ∧ Component.pendIo ∉ writes i ∧ Component.pendMem ∉ writes i ∧
    Component.script ∉ writes i

/-- The operations the UI goes on with leave the handlers and the schedule alone. -/
theorem leavesBusAlone_of_uiNext {s : State} {i : Instr} (h : uiNext s = some i) :
    LeavesBusAlone i := by
  unfold uiNext at h
  split at h <;> cases h <;> exact ⟨by simp, by simp, by simp, by simp⟩

/-- What another agent's turn does: it leaves the UI, the bank store and the handlers alone, and
records its edges. -/
def OtherTurn (s t : State) : Prop := Touches otherCells s t ∧ RecordsEdges s t

section turn
variable {s t : State}

/-- While the bus is silent an agent's turn is a step of the UI's own operation, or another agent's. -/
theorem runAgent_silent {a : Agent} (hb : BusSilent s) (h : runAgent a s = .next t) :
    (∃ i, uiNext s = some i ∧ exec i s = .next t) ∨ t.book.script = s.book.script ∧ OtherTurn s t := by
  obtain ⟨hio, hmem, hq⟩ := hb
  unfold runAgent at h
  split at h
  · next i hi =>
    cases a with
    | irq => simp [agentNext, irqNext, hq, hio, hmem] at hi
    | busIdle =>
      have ht : Touches [.ack, .idle] s t := (exec_touches i s t h).mono (writes_of_busIdleNext hi)
      exact .inr ⟨ht .script (by decide), ht.mono (by decide), .of_touches ht (by decide)⟩
    | ui => exact .inl ⟨i, hi, h⟩
  · cases h
    exact .inr ⟨rfl, .refl, .of_touches (cs := []) .refl (by decide)⟩

/-- While the bus is silent and no line is written, a step is one of the UI's own operation, or another
agent's. -/
theorem step_silent (hb : BusSilent s) (hs : s.book.script.all agentTurn = true)
    (h : step s = .next t) :
    (∃ i, uiNext s = some i ∧ exec i (setScript s.book.script.tail s) = .next t) ∨
      t.book.script = s.book.script.tail ∧ OtherTurn (setScript s.book.script.tail s) t := by
  have agent {a : Agent} {ts : List Turn} := runAgent_silent (s := setScript ts s) (a := a) (t := t) hb
  unfold step at h
  split at h
  · next hnil =>
    have hself : setScript s.book.script.tail s = s := by rw [hnil, List.tail_nil, ← hnil]; rfl
    rw [← hself] at h
    exact agent h
  · next c rest hc =>
    cases h
    rw [hc]
    have ht := touches_envStep c (setScript rest s)
    exact .inr ⟨ht .script (by decide), ht.mono (by decide), recordsEdges_envStep c _⟩
  · next rest hc =>
    cases h
    rw [hc]
    have ht := touches_cpuSampleStep (setScript rest s)
    exact .inr ⟨ht .script (by decide), ht.mono (by decide), .of_touches ht (by decide)⟩
  · next k rest hc =>
    cases h
    rw [hc]
    have ht := touches_storageStep k (setScript rest s)
    exact .inr ⟨ht .script (by decide), ht.mono (by decide), .of_touches ht (by decide)⟩
  · next a rest hc => rw [hc]; exact agent h
  · next bytes rest hc => simp [hc, agentTurn] at hs

end turn

/-! ### A run -/

/-- A run from `s` has reached `u`: no handler runs, only agents' turns are written, and each latch that
changed has its edge on record. -/
def QuietSince (s u : State) : Prop :=
  RecordsEdges s u ∧ u.sequencer = .idle ∧ u.book.script.all agentTurn = true

section run
variable {s t u v : State} {i : Instr}

/-- With no edge on record the bus is still silent. -/
theorem QuietSince.busSilent (h : QuietSince s u) (hs : BusSilent s)
    (he : ∀ src, Event.edge src ∉ u.book.hist.drop s.book.hist.length) : BusSilent u := by
  obtain ⟨⟨-, hlatches⟩, hq, -⟩ := h
  obtain ⟨hio, hmem⟩ := hlatches he
  exact ⟨hio.trans hs.1, hmem.trans hs.2.1, hq⟩

theorem QuietSince.setScript_tail (h : QuietSince s u) :
    QuietSince s (setScript u.book.script.tail u) := by
  obtain ⟨hedges, hq, hturns⟩ := h
  refine ⟨hedges.trans (.of_touches (touches_setScript _ u) (by decide)), hq, ?_⟩
  rw [List.all_eq_true] at hturns ⊢
  exact fun turn hm => hturns turn (List.mem_of_mem_tail hm)

/-- An operation that leaves the handlers and the schedule alone. -/
theorem QuietSince.exec (h : QuietSince s u) (hi : LeavesBusAlone i)
    (he : Machine.exec i u = .next v) (hh : u.book.hist <+: v.book.hist) : QuietSince s v := by
  obtain ⟨hedges, hq, hturns⟩ := h
  obtain ⟨hsequencer, hio, hmem, hscript⟩ := hi
  have hkept : v.book.script = u.book.script := exec_same he hscript
  exact ⟨hedges.trans (.of_same hh (exec_same he hio) (exec_same he hmem)),
    Eq.trans (exec_same he hsequencer) hq, hkept ▸ hturns⟩

theorem QuietSince.otherTurn (h : QuietSince s u) (ht : OtherTurn u v)
    (hscript : v.book.script = u.book.script) : QuietSince s v := by
  obtain ⟨hedges, hq, hturns⟩ := h
  obtain ⟨htouches, hturn⟩ := ht
  exact ⟨hedges.trans hturn, Eq.trans (htouches .sequencer (by decide)) hq, hscript ▸ hturns⟩

/-- Under R160's premise, of an operation that a line begins: what holds once it is begun, and is kept by
each further step of the UI's operation and by every other agent's turn, holds where the run ends. -/
theorem noBusActivity_induct {P : State → Prop} {rest : List Turn} {n : Nat}
    (hn : NoBusActivity n s) (hrun : runSteps n s = .next t) (hpos : 0 < n)
    (hs : s.book.script = .line (encode i) :: rest) (hrest : rest.all agentTurn = true)
    (hd : decode s.host.dec.pstate (encode i) = .ok i) (hi : LeavesBusAlone i)
    (first : ∀ u, exec i (setScript rest s) = .next u → s.book.hist <+: u.book.hist ∧ P u)
    (ui : ∀ u v j, P u → uiNext u = some j → exec j u = .next v →
      u.book.hist <+: v.book.hist ∧ P v)
    (other : ∀ u v, P u → Touches otherCells u v → P v) : P t := by
  obtain ⟨hsilent, hedge⟩ := hn
  have reached (m : Nat) : ∀ u, m < n → runSteps (m + 1) s = .next u → QuietSince s u ∧ P u := by
    induction m with
    | zero =>
      intro u _ hu
      obtain ⟨w, hw, ⟨⟩⟩ := runSteps_succ_inv hu
      rw [step_line hs, runLine_ok (s := setScript rest s) hd] at hw
      have hquiet : QuietSince s (setScript rest s) :=
        ⟨.of_touches (touches_setScript rest s) (by decide), hsilent.2.2, hrest⟩
      obtain ⟨hh, hp⟩ := first u hw
      exact ⟨hquiet.exec hi hw hh, hp⟩
    | succ m ih =>
      intro v hm hv
      obtain ⟨u, hu, hstep⟩ := runSteps_last hv
      obtain ⟨hquiet, hp⟩ := ih u (by omega) hu
      have ⟨_, _, hturns⟩ := hquiet
      have hb := hquiet.busSilent hsilent fun src => hedge _ u src hm hu
      have hp' := other u _ hp ((touches_setScript u.book.script.tail u).mono (by decide))
      rcases step_silent hb hturns hstep with ⟨j, hj, he⟩ | ⟨hscript, hturn⟩
      · obtain ⟨hh, hv⟩ := ui _ v j hp' hj he
        exact ⟨hquiet.setScript_tail.exec (leavesBusAlone_of_uiNext hj) he hh, hv⟩
      · exact ⟨hquiet.setScript_tail.otherTurn hturn hscript, other _ v hp' hturn.1⟩
  obtain ⟨m, rfl⟩ : ∃ m, n = m + 1 := ⟨n - 1, by omega⟩
  exact (reached m t (by omega) hrun).2

end run

end Sys2Proof.Machine
end

section
/-! PROOFS. The bank store and its host operations (43_bank_store.md): the accessors, the operations of
one step, and a whole `clear`. -/

namespace Sys2Proof.Machine

/-! ### The first `i` bytes of a bank -/

/-- In `u` the bytes of bank `b` below `i` are 0; every other bank byte is as in `s`. -/
def ZeroedBelow (b : BankNumber) (i : Nat) (s u : State) : Prop :=
  ∀ b' j, bankByte u b' j = if b' = b ∧ j.toNat < i then 0 else bankByte s b' j

section zeroed
variable {s u v : State} {b : BankNumber} {i : Nat}

theorem zeroedBelow_zero (h : u.store.bank = s.store.bank) : ZeroedBelow b 0 s u := fun b' j => by
  rw [bankByte_congr h, if_neg (by simp)]

theorem ZeroedBelow.congr (h : ZeroedBelow b i s u) (hv : v.store.bank = u.store.bank) :
    ZeroedBelow b i s v := fun b' j => (bankByte_congr hv b' j).trans (h b' j)

/-- One byte more (R122). -/
theorem ZeroedBelow.clearStep (h : ZeroedBelow b i s u) (hi : i < 32768) :
    ZeroedBelow b (i + 1) s (clearStep b i u) := by
  have hbank : (Machine.clearStep b i u).store.bank =
      (setBankByte b (BitVec.ofNat 15 i) 0 u).store.bank := by rw [clearStep_byte hi]; rfl
  intro b' j
  rw [bankByte_congr hbank]
  have hval : (BitVec.ofNat 15 i).toNat = i := by rw [BitVec.toNat_ofNat]; omega
  by_cases hj : b' = b ∧ j = BitVec.ofNat 15 i
  · obtain ⟨rfl, rfl⟩ := hj
    rw [bankByte_setBankByte_same, if_pos ⟨rfl, by omega⟩]
  · have hlt : b' = b ∧ j.toNat < i ↔ b' = b ∧ j.toNat < i + 1 := by
      refine and_congr_right fun hb => ?_
      have hne : j.toNat ≠ i := fun e => hj ⟨hb, BitVec.eq_of_toNat_eq (e.trans hval.symm)⟩
      omega
    rw [bankByte_setBankByte_other u 0 hj, h b' j, if_congr hlt rfl rfl]

/-- Zeroed to its end, the whole bank is 0, and the others are kept. -/
theorem ZeroedBelow.whole (h : ZeroedBelow b 32768 s u) :
    (∀ j, bankByte u b j = 0) ∧ ∀ b' j, b' ≠ b → bankByte u b' j = bankByte s b' j :=
  ⟨fun j => (h b j).trans (if_pos ⟨rfl, j.isLt⟩), fun b' j hb => (h b' j).trans (if_neg (hb ·.1))⟩

end zeroed

/-! ### A clear with nothing between its steps -/

/-- A bank a host may name is that of its low three bits. -/
theorem setWidth_bankNumber {bank : Byte} (h : bank.toNat ≤ 7) :
    (bank.setWidth 3 : BankNumber).setWidth 8 = bank := by
  apply BitVec.eq_of_toNat_eq
  simp
  omega

section clear
variable {s : State} {bank : Byte} (ha : s.host.activity = .between) (hb : bank.toNat ≤ 7)
include ha hb

/-- The first `k + 1` performances: each has written its byte, and nothing else. -/
theorem repeatExec_clear_bytes (k : Nat) (hk : k < 32768) :
    ∃ u, repeatExec (.clear bank) (k + 1) s = .next u ∧
      { u with store.bank := s.store.bank } = { s with
        host.activity := .clearing (bank.setWidth 3) (k + 1)
        book.hist := s.book.hist ++ [Event.host (.clear bank)] } ∧
      ZeroedBelow (bank.setWidth 3) (k + 1) s u := by
  induction k with
  | zero =>
    refine ⟨_, repeatExec_one (exec_clear_between ha hb), ?_,
      (zeroedBelow_zero (u := beginHost (.clear bank) s) rfl).clearStep hk⟩
    rw [clearStep_byte hk]
    rfl
  | succ k ih =>
    obtain ⟨u, hu, hframe, hz⟩ := ih (by omega)
    have hact : u.host.activity = .clearing (bank.setWidth 3) (k + 1) :=
      congrArg (·.host.activity) hframe
    have hstep := exec_clear_clearing hact
    rw [setWidth_bankNumber hb] at hstep
    refine ⟨_, (repeatExec_add (k + 1) 1 hu).trans (repeatExec_one hstep), ?_, hz.clearStep hk⟩
    rw [clearStep_byte hk]
    exact congrArg (setActivity (.clearing (bank.setWidth 3) (k + 1 + 1))) hframe

/-- The last performance writes the name (D17). -/
theorem repeatExec_clear : ∃ t, repeatExec (.clear bank) 32769 s = .next t ∧
    { t with store.bank := s.store.bank } = { s with
      store.name := s.store.name.set (bank.setWidth 3 : BankNumber).toNat BankName.empty
        (bank.setWidth 3 : BankNumber).isLt
      book.hist := s.book.hist ++ [Event.host (.clear bank)] } ∧
    ZeroedBelow (bank.setWidth 3) 32768 s t := by
  obtain ⟨u, hu, hframe, hz⟩ := repeatExec_clear_bytes ha hb 32767 (by decide)
  have hact : u.host.activity = .clearing (bank.setWidth 3) 32768 :=
    congrArg (·.host.activity) hframe
  have hstep := exec_clear_clearing hact
  rw [setWidth_bankNumber hb, clearStep_name (Nat.le_refl _)] at hstep
  refine ⟨_, (repeatExec_add 32768 1 hu).trans (repeatExec_one hstep), ?_, hz.congr rfl⟩
  refine (congrArg (fun w => setActivity .between (setName (bank.setWidth 3) .empty w)) hframe).trans
    ?_
  -- the UI is back where it stood in `s`
  rw [← ha]
  rfl

end clear

/-! ### A clear with other agents' steps between its own -/

/-- Where a clear of bank `b` that was begun in `s` stands: before byte `i` or its name, or at its end. -/
def ClearReached (b : BankNumber) (s u : State) : Prop :=
  (∃ i, i ≤ 32768 ∧ u.host.activity = .clearing b i ∧ ZeroedBelow b i s u ∧
      u.store.name = s.store.name) ∨
    (u.host.activity = .between ∧ ZeroedBelow b 32768 s u ∧
      u.store.name = s.store.name.set b.toNat BankName.empty b.isLt)

namespace ClearReached
variable {b : BankNumber} {s u v : State}

theorem congr (h : ClearReached b s u) (ha : Same u v .activity) (hb : Same u v .bank)
    (hn : Same u v .name) : ClearReached b s v := by
  have ha : v.host.activity = u.host.activity := ha
  have hn : v.store.name = u.store.name := hn
  rcases h with ⟨i, hi, hact, hz, hname⟩ | ⟨hact, hz, hname⟩
  · exact .inl ⟨i, hi, ha.trans hact, hz.congr hb, hn.trans hname⟩
  · exact .inr ⟨ha.trans hact, hz.congr hb, hn.trans hname⟩

/-- A step of the clear brings it on: to the next byte, to the name, to its end. -/
theorem clearStep {i : Nat} (hi : i ≤ 32768) (hz : ZeroedBelow b i s u)
    (hn : u.store.name = s.store.name) : ClearReached b s (clearStep b i u) := by
  rcases Nat.lt_or_eq_of_le hi with hlt | rfl
  · have hz' := hz.clearStep hlt
    rw [clearStep_byte hlt] at hz' ⊢
    exact .inl ⟨i + 1, hlt, rfl, hz', hn⟩
  · rw [clearStep_name (Nat.le_refl _)]
    exact .inr ⟨rfl, hz.congr rfl, congrArg (·.set b.toNat BankName.empty b.isLt) hn⟩

/-- The step the UI goes on with is a step of the clear; it records nothing. -/
theorem uiStep {j : Instr} (h : ClearReached b s u) (hj : uiNext u = some j)
    (he : exec j u = .next v) :
    Touches [.bank, .name, .activity] u v ∧ ClearReached b s v := by
  rcases h with ⟨i, hi, hact, hz, hname⟩ | ⟨hact, -⟩
  · simp only [uiNext, hact] at hj
    cases hj
    rw [exec_clear_clearing hact] at he
    cases he
    exact ⟨touches_clearStep u b i, .clearStep hi hz hname⟩
  · simp [uiNext, hact] at hj

end ClearReached

/-- Settles O39: the performances one by one, each writing its byte, and the last the name; with other
agents' turns between, where the clear stands is carried along the run. -/
theorem clearZeroFillsTheBank : Obligations.ClearZeroFillsTheBank := by
  unfold Obligations.ClearZeroFillsTheBank
  refine ⟨fun s bank ha hb => ?alone, fun s t bank rest n ha hb hs hrest hn hrun hpos hend => ?run⟩
  case alone =>
    obtain ⟨t, ht, hframe, hz⟩ := repeatExec_clear ha hb
    exact ⟨t, ht, hz.whole.1, hz.whole.2, hframe⟩
  case run =>
    have hreached : t.store.curBank = s.store.curBank ∧ ClearReached (bank.setWidth 3) s t := by
      refine noBusActivity_induct
        (P := fun u => u.store.curBank = s.store.curBank ∧ ClearReached (bank.setWidth 3) s u)
        hn hrun hpos hs hrest (Laws.RoundTrip.clear bank _ rfl rfl)
        ⟨by simp, by simp, by simp, by simp⟩
        ?first ?ui ?other
      case first =>
        intro u hu
        rw [exec_clear_between (s := setScript rest s) ha hb] at hu
        cases hu
        have ht := touches_clearStep (beginHost (.clear bank) (setScript rest s)) (bank.setWidth 3) 0
        have hhist := ht .hist (by decide)
        have hcur := ht .curBank (by decide)
        exact ⟨⟨_, hhist.symm⟩, hcur, .clearStep (Nat.zero_le _) (zeroedBelow_zero rfl) rfl⟩
      case ui =>
        rintro u v j ⟨hcur, hu⟩ hj he
        obtain ⟨ht, hv⟩ := hu.uiStep hj he
        exact ⟨ht.hist_grows (by decide), Eq.trans (ht .curBank (by decide)) hcur, hv⟩
      case other =>
        rintro u v ⟨hcur, hu⟩ ht
        exact ⟨Eq.trans (ht .curBank (by decide)) hcur,
          hu.congr (ht _ (by decide)) (ht _ (by decide)) (ht _ (by decide))⟩
    obtain ⟨hcur, ⟨i, -, hact, -⟩ | ⟨-, hz, hname⟩⟩ := hreached
    · simp [hact] at hend
    · exact ⟨hz.whole.1, hz.whole.2, hname, hcur⟩

/-! ### The accessors and the operations of one step -/

/-- Settles O35: both accessors act on the byte at `bankIdx a`. -/
theorem bankAccessorsReadAndWriteOneByte : Obligations.BankAccessorsReadAndWriteOneByte := by
  unfold Obligations.BankAccessorsReadAndWriteOneByte
  intro s b a v
  rw [← bankIdx_eq_mod]
  have hsame : bankByte (bankWrite b a v s) b (bankIdx a) = v := bankByte_setBankByte_same s _ _ _
  refine ⟨rfl, bankWrite b a v s, rfl, rfl, hsame, bankKeptBut_setBankByte _ _ _ s, ?readBack⟩
  case readBack =>
    exact congrArg (fun w => Host.Outcome.next (giveBack (.byte w) (bankWrite b a v s))) hsame

section between
variable {s : State} (ha : s.host.activity = .between)
include ha

theorem exec_read_between (bank : Byte) (a : Addr) :
    exec (.read bank a) s = withBank bank fun b =>
      .next (giveBack (.byte (bankRead s b a)) (beginHost (.read bank a) s)) := by
  dsimp only [exec, execRead]
  rw [whenFree_between ha]

theorem exec_write_between (bank : Byte) (a : Addr) (v : Byte) :
    exec (.write bank a v) s = withBank bank fun b =>
      .next (bankWrite b a v (beginHost (.write bank a v) s)) := by
  dsimp only [exec, execWrite]
  rw [whenFree_between ha]

/-- No bank above 7 is cleared (R125). -/
theorem exec_clear_refused {bank : Byte} (hb : 7 < bank.toNat) :
    exec (.clear bank) s = .refused .bankOutOfRange := by
  simp [exec, execClear, ha, withBank_refused hb]

theorem exec_curbank_between :
    exec .curbank s = .next (giveBack (.bank s.store.curBank) (beginHost .curbank s)) := by
  dsimp only [exec, execCurbank]
  rw [whenFree_between ha]

theorem exec_setbank_between (n : Int) :
    exec (.setbank n) s = if n < 0 then .refused .negativeBank else
      .next { beginHost (.setbank n) s with store.curBank := BitVec.ofNat 3 (n.toNat % 8) } := by
  dsimp only [exec, execSetbank]
  rw [whenFree_between ha]
  rfl

end between

/-- Settles O36: a named bank is acted on at `bankIdx a`, any other is refused. -/
theorem hostReadsAndWritesNamedBanks : Obligations.HostReadsAndWritesNamedBanks := by
  unfold Obligations.HostReadsAndWritesNamedBanks
  refine ⟨fun lo hi => ?decoder, fun s bank a v ha => ?operations⟩
  case decoder =>
    rw [← bankIdx_eq_mod]
    rfl
  case operations =>
    rw [← bankIdx_eq_mod, exec_read_between ha, exec_write_between ha]
    refine ⟨fun hb => ?read, fun hb => ?write, fun hb =>
      ⟨withBank_refused hb, withBank_refused hb, exec_clear_refused ha hb⟩⟩
    case read =>
      rw [withBank_ok (Nat.lt_succ_of_le hb)]
      rfl
    case write =>
      refine ⟨_, withBank_ok (Nat.lt_succ_of_le hb), ?_, bankByte_setBankByte_same (beginHost _ s) _ _ _,
        bankKeptBut_setBankByte _ _ _ (beginHost _ s)⟩
      simp [bankWrite, beginHost, emit, setBankByte]

/-- Settles O37: a natural argument is not negative, a negative one is refused. -/
theorem currentBankIsSetModuloEight : Obligations.CurrentBankIsSetModuloEight := by
  unfold Obligations.CurrentBankIsSetModuloEight
  refine fun s ha => ⟨exec_curbank_between ha, fun n => ?natural, fun n hn => ?negative⟩
  case natural =>
    rw [exec_setbank_between ha, if_neg (Int.not_lt.2 (Int.natCast_nonneg n))]
    rfl
  case negative => rw [exec_setbank_between ha, if_pos hn]

end Sys2Proof.Machine
end

section
/-! PROOFS. The address remapper: where each bit of an address goes, the closed forms of the permutation
and of its named alternative, and that the permutation is an involution (O40, O41). -/

namespace Sys2Proof.Machine

/-- Every row of the table holds of an address on the host's 16 wires: bit `s` becomes bit `d` (R126). -/
theorem getLsbD_remapAddr_setWidth (a : Addr) :
    ∀ sd ∈ remapTable, (remapAddr (a.setWidth 15)).getLsbD sd.2 = a.getLsbD sd.1 := by
  simp [remapTable, getLsbD_remapAddr]

/-- `0x7820` masks the bits that stay, `0x001F` the two fields that change places (R127). -/
theorem setWidth_remapAddr (a : Addr) : (remapAddr (a.setWidth 15)).setWidth 16 =
    (a &&& 0x7820) ||| ((a &&& 0x001F) <<< 6) ||| ((a >>> 6) &&& 0x001F) := by
  apply BitVec.eq_of_getLsbD_eq
  intro k hk
  rw [BitVec.getLsbD_setWidth, getLsbD_remapAddr]
  interval_cases k <;> simp

/-- `0x07FF` masks the 11 bits that rotate, `0x7800` the bits above them (R128). -/
theorem remapWith_remapRot6 (a : BankIndex) : remapWith remapRot6 a =
    (a &&& 0x7800) ||| ((a <<< 6) &&& 0x07FF) ||| ((a &&& 0x07FF) >>> 5) := by
  apply BitVec.eq_of_getLsbD_eq
  intro k hk
  rw [getLsbD_remapWith]
  interval_cases k <;> simp [remapRot6]

theorem remapAddr_involutive : Function.Involutive remapAddr := remapAddr_remapAddr

/-- The two fields that change places, compared bit by bit. -/
theorem remapFields_eq_iff (a : BankIndex) :
    a.extractLsb' 0 5 = a.extractLsb' 6 5 ↔ ∀ k < 5, a.getLsbD k = a.getLsbD (k + 6) := by
  rw [BitVec.eq_of_getLsbD_eq_iff]
  refine forall₂_congr fun k hk => ?_
  simp [hk, Nat.add_comm]

/-- A fixed point is an address that does not show the exchange of its fields (R128). -/
theorem remapAddr_eq_self_iff (a : BankIndex) :
    remapAddr a = a ↔ a.extractLsb' 0 5 = a.extractLsb' 6 5 := by
  rw [remapFields_eq_iff, BitVec.eq_of_getLsbD_eq_iff]
  constructor
  case mp =>
    intro fixed k hk
    have bit := fixed k (by omega)
    rwa [getLsbD_remapAddr, if_pos hk, eq_comm] at bit
  case mpr =>
    intro agree k _
    rw [getLsbD_remapAddr]
    split
    case isTrue low => exact (agree k low).symm
    case isFalse =>
      split
      case isTrue high => rw [agree (k - 6) (by omega), Nat.sub_add_cancel high.1]
      case isFalse => rfl

theorem exec_remap_between {s : State} (ha : s.host.activity = .between) (a : Addr) :
    exec (.remap a) s = if a.toNat < 32768 then
      .next (giveBack (.address (remapAddr (a.setWidth 15))) (beginHost (.remap a) s))
    else .refused .remapOutOfRange := by
  dsimp only [exec, execRemap]
  rw [whenFree_between ha]
  rfl

/-- Settles O41: `remapAddr` is an involution, hence bijective; the rest are its closed facts and the
rotation's closed form. -/
theorem remapIsItsOwnInverse : Obligations.RemapIsItsOwnInverse := by
  unfold Obligations.RemapIsItsOwnInverse
  exact ⟨remapAddr_involutive, remapAddr_involutive.bijective.existsUnique, remapAddr_eq_self_iff,
    by decide, by decide, remapWith_remapRot6, by decide⟩

/-- Settles O40: the rows of the table are the clauses on bits, and 32767 is the last address in range. -/
theorem remapPermutesAddressBits : Obligations.RemapPermutesAddressBits := by
  unfold Obligations.RemapPermutesAddressBits
  refine fun s a ha => ⟨fun inRange => ?answered, fun above => ?refused⟩
  case answered =>
    refine ⟨remapAddr (a.setWidth 15), ?_, ?_⟩
    · rw [exec_remap_between ha, if_pos (Nat.lt_succ_of_le inRange)]
      rfl
    · have rows := getLsbD_remapAddr_setWidth a
      simp only [remapTable, List.forall_mem_cons] at rows
      obtain ⟨b0, b1, b2, b3, b4, b5, b6, b7, b8, b9, b10, b11, b12, b13, b14, -⟩ := rows
      exact ⟨b0, b1, b2, b3, b4, b5, b6, b7, b8, b9, b10, b11, b12, b13, b14, setWidth_remapAddr a⟩
  case refused => rw [exec_remap_between ha, if_neg (Nat.not_lt.2 above)]

end Sys2Proof.Machine
end

section
/-! PROOFS. The rows of the hex codec (45_hex_codec.md R130 to R146): what the action of each character
makes of the state, in which case each one is refused or an error, and what all of them leave alone. -/

namespace Sys2Proof.Machine

/-! ### Split units (R143) -/

/-- The digits of a unit have begun and are not complete. -/
def SplitUnit (d : Decoder) : Prop := d.nib ≠ none ∨ (d.pstate = .inOrigin ∧ 0 < d.ocnt)

theorem splitPending_iff (d : Decoder) : splitPending d = true ↔ SplitUnit d := by
  simp [splitPending, SplitUnit, Option.isSome_iff_ne_none]

theorem not_splitUnit {d : Decoder} (hn : d.nib = none) (ho : d.pstate = .inOrigin → d.ocnt = 0) :
    ¬SplitUnit d := by
  rintro (hs | ⟨hp, h0⟩)
  · exact hs hn
  · exact Nat.ne_of_gt h0 (ho hp)

section guarded
variable {s : State} {act : State → State}

theorem unlessSplit_refused (h : SplitUnit s.host.dec) :
    unlessSplit s act = .refused .splitUnit := if_pos ((splitPending_iff _).2 h)

theorem unlessSplit_whole (h : ¬SplitUnit s.host.dec) : unlessSplit s act = .next (act s) :=
  if_neg fun hp => h ((splitPending_iff _).1 hp)

end guarded

/-! ### The marks and the separator (R133 to R135) -/

section marks
variable {s : State}

theorem hashMark_comment (hp : s.host.dec.pstate = .inComment) : hashMark s = .next s := by
  unfold hashMark
  rw [hp]

theorem hashMark_outside (hp : s.host.dec.pstate ≠ .inComment) : hashMark s =
    unlessSplit s fun s => setDec { s.host.dec with pstate := .inComment } s := by
  unfold hashMark; split <;> [contradiction; rfl; rfl]

theorem originMark_comment (hp : s.host.dec.pstate = .inComment) : originMark s = .next s := by
  unfold originMark
  rw [hp]

theorem originMark_outside (hp : s.host.dec.pstate ≠ .inComment) : originMark s =
    unlessSplit s fun s => setDec { s.host.dec with pstate := .inOrigin, oacc := 0, ocnt := 0 } s := by
  unfold originMark; split <;> [contradiction; rfl; rfl]

theorem separator_comment (hp : s.host.dec.pstate = .inComment) : separator s = .next s := by
  unfold separator
  rw [hp]

theorem separator_outside (hp : s.host.dec.pstate ≠ .inComment) :
    separator s = unlessSplit s fun s => s := by
  unfold separator; split <;> [contradiction; rfl; rfl]

end marks

/-! ### Digits (R79, R136 to R139) -/

theorem byteOfDigits_toNat (hi lo : BitVec 4) :
    (byteOfDigits hi lo).toNat = 16 * hi.toNat + lo.toNat := by
  rw [byteOfDigits, BitVec.toNat_append, ← Nat.shiftLeft_add_eq_or_of_lt lo.isLt,
    Nat.shiftLeft_eq]
  omega

theorem letterValue_eq {h : BitVec 3} {d : BitVec 4} (hh : h.toNat ≤ 6)
    (hd : d.toNat = 9 + h.toNat) : letterValue h = d := by
  apply BitVec.eq_of_toNat_eq
  simp [letterValue]
  omega

theorem originDigit_eq {acc o : BitVec 16} {d : BitVec 4}
    (h : o.toNat = (16 * acc.toNat + d.toNat) % 65536) : originDigit acc d = o := by
  apply BitVec.eq_of_toNat_eq
  simp [originDigit]
  omega

section digits
variable {s : State} {d : BitVec 4}

theorem dataDigit_first (h : s.host.dec.nib = none) :
    dataDigit d s = setDec { s.host.dec with nib := some d } s := by
  unfold dataDigit
  rw [h]

theorem dataDigit_second {hi : BitVec 4} (h : s.host.dec.nib = some hi) :
    dataDigit d s = storeByte (byteOfDigits hi d) (setDec { s.host.dec with nib := none } s) := by
  unfold dataDigit
  rw [h]

theorem storeByte_inside {v : Byte} (h : s.host.dec.cursor < 32768) : storeByte v s =
    setDec { s.host.dec with
        cursor := s.host.dec.cursor + 1
        written := insertOffset s.host.dec.cursor s.host.dec.written }
      (setScratchByte s.host.dec.cursor v s) := if_pos h

theorem storeByte_past {v : Byte} (h : ¬s.host.dec.cursor < 32768) :
    storeByte v s = raiseDecodeError s := if_neg h

theorem dataDigit_stored {hi : BitVec 4} (h : s.host.dec.nib = some hi)
    (hc : s.host.dec.cursor < 32768) : dataDigit d s =
      setDec { s.host.dec with
          nib := none, cursor := s.host.dec.cursor + 1
          written := insertOffset s.host.dec.cursor s.host.dec.written }
        (setScratchByte s.host.dec.cursor (byteOfDigits hi d) s) := by
  rw [dataDigit_second h, storeByte_inside (by exact hc)]
  rfl

theorem dataDigit_past {hi : BitVec 4} (h : s.host.dec.nib = some hi)
    (hc : 32768 ≤ s.host.dec.cursor) : dataDigit d s =
      raiseDecodeError (setDec { s.host.dec with nib := none } s) := by
  rw [dataDigit_second h, storeByte_past (by exact Nat.not_lt.2 hc)]

@[simp] theorem setDec_setDec (d e : Decoder) (s : State) :
    setDec d (setDec e s) = setDec d s := rfl

theorem originDigitAct_shift (h : s.host.dec.ocnt ≠ 3) : originDigitAct d s =
    setDec { s.host.dec with
      oacc := originDigit s.host.dec.oacc d, ocnt := s.host.dec.ocnt + 1 } s :=
  if_neg fun h4 => h (Nat.succ.inj h4)

theorem originDigitAct_fourth {o : BitVec 16} (h : s.host.dec.ocnt = 3)
    (ho : originDigit s.host.dec.oacc d = o) : originDigitAct d s =
      leaveOrigin (applyOrigin o (setDec { s.host.dec with oacc := o, ocnt := 4 } s)) := by
  unfold originDigitAct
  rw [ho, h]
  rfl

theorem leaveOrigin_running {e : Decoder} (h : e.status = .running) :
    leaveOrigin (setDec e s) = setDec { e with pstate := .normal } s :=
  if_pos (beq_iff_eq.2 h)

theorem leaveOrigin_failed : leaveOrigin (raiseDecodeError s) = raiseDecodeError s := rfl

theorem originDigitAct_inRange {o : BitVec 16} (h : s.host.dec.ocnt = 3)
    (ho : originDigit s.host.dec.oacc d = o) (hr : s.host.dec.status = .running)
    (hlo : 0x1800 ≤ o.toNat) (hhi : o.toNat ≤ 0x97FF) : originDigitAct d s =
      setDec { s.host.dec with
        oacc := o, ocnt := 4, cursor := o.toNat - 0x1800, pstate := .normal } s := by
  rw [originDigitAct_fourth h ho]
  rcases applyOrigin_cases o (setDec { s.host.dec with oacc := o, ocnt := 4 } s)
    with ⟨-, -, e⟩ | ⟨out, -⟩
  · rw [e, setDec_setDec, leaveOrigin_running (by exact hr)]
    rfl
  · omega

theorem originDigitAct_outOfRange {o : BitVec 16} (h : s.host.dec.ocnt = 3)
    (ho : originDigit s.host.dec.oacc d = o) (out : o.toNat < 0x1800 ∨ 0x97FF < o.toNat) :
    originDigitAct d s = raiseDecodeError (setDec { s.host.dec with oacc := o, ocnt := 4 } s) := by
  rw [originDigitAct_fourth h ho]
  rcases applyOrigin_cases o (setDec { s.host.dec with oacc := o, ocnt := 4 } s)
    with ⟨lo, hi, -⟩ | ⟨-, e⟩
  · omega
  · rw [e, leaveOrigin_failed]

end digits

/-! ### A row that acts (log 29) -/

theorem mem_anyState (p : PState) : p ∈ [PState.normal, .inComment, .inOrigin] := by
  cases p <;> decide

/-- Between operations and while the decode goes on, a row acts in the states it is for. -/
theorem charRow_act {s : State} {states : List PState} {act : State → Result}
    (ha : s.host.activity = .between) (hr : s.host.dec.status = .running)
    (hp : s.host.dec.pstate ∈ states) : charRow s states act = act s := by
  rw [charRow, whenFree_between ha]
  exact if_pos (by simp [decodeRunning, hr, hp])

/-- The three rows of a hex digit perform its value, upper and lower case alike (R79). -/
theorem exec_digitRow {s : State} {i : Instr} {d : BitVec 4} (digit : BitVec 4 → Instr)
    (upper lower : BitVec 3 → Instr) {act : BitVec 4 → State → State}
    (hdigit : ∀ x, exec (digit x) s = .next (act (digitValue x) s))
    (hupper : ∀ h, exec (upper h) s = .next (act (letterValue h) s))
    (hlower : ∀ h, exec (lower h) s = .next (act (letterValue h) s))
    (hi : (∃ x : BitVec 4, i = digit x ∧ x.toNat ≤ 9 ∧ d.toNat = x.toNat) ∨
      (∃ h : BitVec 3, i = upper h ∧ 1 ≤ h.toNat ∧ h.toNat ≤ 6 ∧ d.toNat = 9 + h.toNat) ∨
      ∃ h : BitVec 3, i = lower h ∧ 1 ≤ h.toNat ∧ h.toNat ≤ 6 ∧ d.toNat = 9 + h.toNat) :
    exec i s = .next (act d s) := by
  rcases hi with ⟨x, rfl, -, hd⟩ | ⟨h, rfl, -, hh, hd⟩ | ⟨h, rfl, -, hh, hd⟩
  · obtain rfl : d = x := BitVec.eq_of_toNat_eq hd
    exact hdigit _
  · rw [hupper, letterValue_eq hh hd]
  · rw [hlower, letterValue_eq hh hd]

/-- Settles O42: a row for every parser state acts, guarded against a split unit unless it stands in a
comment. -/
theorem controlCharactersMoveTheParser : Obligations.ControlCharactersMoveTheParser := by
  unfold Obligations.ControlCharactersMoveTheParser
  intro s ha hr
  have row (act : State → Result) : charRow s [.normal, .inComment, .inOrigin] act = act s :=
    charRow_act ha hr (mem_anyState _)
  have hash : exec .chHash s = hashMark s := row _
  have org : exec .chOrgAt s = originMark s ∧ exec .chOrgColon s = originMark s := ⟨row _, row _⟩
  have sep : exec .chSepSpace s = separator s ∧ exec .chSepTab s = separator s := ⟨row _, row _⟩
  refine ⟨fun split => ?ltSplit, fun whole => ?ltWhole, fun hp => ?comment, fun hp split => ?split,
    fun hp whole => ?whole⟩
  case ltSplit => exact ⟨(row _).trans (unlessSplit_refused split),
    (row _).trans (unlessSplit_refused split)⟩
  case ltWhole => exact ⟨(row _).trans (unlessSplit_whole whole),
    (row _).trans (unlessSplit_whole whole)⟩
  case comment =>
    rw [hash, org.1, org.2, sep.1, sep.2, hashMark_comment hp, originMark_comment hp,
      separator_comment hp]
    exact ⟨rfl, rfl, rfl, rfl, rfl⟩
  case split =>
    rw [hash, org.1, org.2, sep.1, sep.2, hashMark_outside hp, originMark_outside hp,
      separator_outside hp, unlessSplit_refused split, unlessSplit_refused split,
      unlessSplit_refused split]
    exact ⟨rfl, rfl, rfl, rfl, rfl⟩
  case whole =>
    rw [hash, org.1, org.2, sep.1, sep.2, hashMark_outside hp, originMark_outside hp,
      separator_outside hp, unlessSplit_whole whole, unlessSplit_whole whole,
      unlessSplit_whole whole]
    exact ⟨rfl, rfl, rfl, rfl, rfl⟩

/-- Settles O43: each row performs its digit; the first is kept, the second stores its byte or is past
the buffer. -/
theorem dataDigitPairsAreStored : Obligations.DataDigitPairsAreStored := by
  unfold Obligations.DataDigitPairsAreStored
  intro s i d ha hr hp hi
  have row (e : BitVec 4) : charRow s [.normal] (fun s => .next (dataDigit e s)) =
      .next (dataDigit e s) := charRow_act ha hr (List.mem_singleton.2 hp)
  rw [exec_digitRow .chHexNormalDigit .chHexNormalUpper .chHexNormalLower (act := dataDigit)
    (fun _ => row _) (fun _ => row _) (fun _ => row _) hi]
  refine ⟨fun hnone => ?first, fun first hsome => ⟨fun hc => ?stored, fun hc => ?past⟩⟩
  case first => rw [dataDigit_first hnone]; rfl
  case stored =>
    rw [dataDigit_stored hsome (Nat.lt_succ_of_le hc)]
    refine ⟨_, rfl, rfl, ?_, scratchKeptBut_setScratchByte _ _ s, fun j => mem_insertOffset⟩
    rw [← byteOfDigits_toNat]
    exact congrArg _ (scratchByte_setScratchByte_same s _ _)
  case past => rw [dataDigit_past hsome hc]; rfl

/-- Settles O44: each row performs its digit; before the fourth it shifts in, the fourth applies the
origin. -/
theorem originDigitsSetTheCursor : Obligations.OriginDigitsSetTheCursor := by
  unfold Obligations.OriginDigitsSetTheCursor
  refine ⟨fun s c ha hr hp => ?bad, fun s i d o ha hr hp hi ho => ?digit⟩
  case bad =>
    exact charRow_act (act := fun s => .next (raiseDecodeError s)) ha hr (List.mem_singleton.2 hp)
  case digit =>
    have row (e : BitVec 4) : charRow s [.inOrigin] (fun s => .next (originDigitAct e s)) =
        .next (originDigitAct e s) := charRow_act ha hr (List.mem_singleton.2 hp)
    rw [exec_digitRow .chHexOriginDigit .chHexOriginUpper .chHexOriginLower (act := originDigitAct)
      (fun _ => row _) (fun _ => row _) (fun _ => row _) hi]
    have ho := originDigit_eq ho
    refine ⟨fun hn => ?shift, fun hn lo hi => ?inRange, fun hn out => ?outOfRange⟩
    case shift => rw [originDigitAct_shift hn, ho]; rfl
    case inRange => rw [originDigitAct_inRange hn ho hr lo hi]; rfl
    case outOfRange => rw [originDigitAct_outOfRange hn ho out]; rfl

/-- Settles O45: the row raises the error in `Normal` state; in a comment it does nothing. -/
theorem invalidCharactersEndTheDecode : Obligations.InvalidCharactersEndTheDecode := by
  unfold Obligations.InvalidCharactersEndTheDecode
  intro s c ha hr
  have row (p : PState) (act : State → Result) (hp : s.host.dec.pstate = p) :
      charRow s [p] act = act s := charRow_act ha hr (List.mem_singleton.2 hp)
  exact ⟨fun hp => ⟨_, row .normal (fun s => .next (raiseDecodeError s)) hp, rfl,
    scratchByte_forgetScratch s⟩, row .inComment .next⟩

end Sys2Proof.Machine
end

section
/-! PROOFS. Reading a stream (45_hex_codec.md R131, R143 to R146): a character's action is its row, what
it leaves behind, and that a stream without split units is read to its end or to its first error. -/

namespace Sys2Proof.Machine

/-! ### The action of a character, by its class (R131) -/

/-- What a character's action is in each class and parser state (R132 to R142). -/
theorem charAct_class (c : Byte) (s : State) :
    (charClass c = .lt → charAct c s = lineEnd (c == 0x0A) s) ∧
    (charClass c ≠ .lt → s.host.dec.pstate = .inComment → charAct c s = .next s) ∧
    (s.host.dec.pstate ≠ .inComment →
      (charClass c = .hash → charAct c s = hashMark s) ∧
      (charClass c = .org → charAct c s = originMark s) ∧
      (charClass c = .sep → charAct c s = separator s) ∧
      (charClass c = .bad → charAct c s = .next (raiseDecodeError s))) ∧
    (charClass c = .hex → s.host.dec.pstate = .normal →
      charAct c s = .next (dataDigit (hexval c) s)) ∧
    (charClass c = .hex → s.host.dec.pstate = .inOrigin →
      charAct c s = .next (originDigitAct (hexval c) s)) := by
  unfold charAct
  refine ⟨fun hc => ?lt, fun hc hp => ?comment, fun hp => ⟨fun hc => ?hash, fun hc => ?org,
    fun hc => ?sep, fun hc => ?bad⟩, fun hc hp => ?data, fun hc hp => ?origin⟩
  case lt => rw [hc]
  case comment =>
    rw [hp]
    cases hclass : charClass c with
    | lt => exact absurd hclass hc
    | _ => rfl
  case data | origin => rw [hc, hp]
  all_goals
    rw [hc]
    cases hs : s.host.dec.pstate with
    | inComment => exact absurd hs hp
    | _ => rfl

section actions
variable {c : Byte} {s : State}

theorem charAct_lt : charClass c = .lt → charAct c s = lineEnd (c == 0x0A) s :=
  (charAct_class c s).1

theorem charAct_comment : charClass c ≠ .lt → s.host.dec.pstate = .inComment →
    charAct c s = .next s := (charAct_class c s).2.1

theorem charAct_hash (h : charClass c = .hash) (hp : s.host.dec.pstate ≠ .inComment) :
    charAct c s = hashMark s := ((charAct_class c s).2.2.1 hp).1 h

theorem charAct_org (h : charClass c = .org) (hp : s.host.dec.pstate ≠ .inComment) :
    charAct c s = originMark s := ((charAct_class c s).2.2.1 hp).2.1 h

theorem charAct_sep (h : charClass c = .sep) (hp : s.host.dec.pstate ≠ .inComment) :
    charAct c s = separator s := ((charAct_class c s).2.2.1 hp).2.2.1 h

theorem charAct_bad (h : charClass c = .bad) (hp : s.host.dec.pstate ≠ .inComment) :
    charAct c s = .next (raiseDecodeError s) := ((charAct_class c s).2.2.1 hp).2.2.2 h

theorem charAct_data : charClass c = .hex → s.host.dec.pstate = .normal →
    charAct c s = .next (dataDigit (hexval c) s) := (charAct_class c s).2.2.2.1

theorem charAct_origin : charClass c = .hex → s.host.dec.pstate = .inOrigin →
    charAct c s = .next (originDigitAct (hexval c) s) := (charAct_class c s).2.2.2.2

theorem execHexRow_normal (c : Byte) (s : State) : exec (decodeHexNormal c) s =
    charRow s [.normal] fun s => .next (dataDigit (hexval c) s) := by
  unfold decodeHexNormal hexval
  split_ifs <;> rfl

theorem execHexRow_origin (c : Byte) (s : State) : exec (decodeHexOrigin c) s =
    charRow s [.inOrigin] fun s => .next (originDigitAct (hexval c) s) := by
  unfold decodeHexOrigin hexval
  split_ifs <;> rfl

/-- The row a character selects performs the character's action. -/
theorem exec_decodeChar (ha : s.host.activity = .between) (hr : s.host.dec.status = .running) :
    exec (decodeChar s.host.dec.pstate c) s = charAct c s := by
  have row {states : List PState} (act : State → Result) (hp : s.host.dec.pstate ∈ states) :
      charRow s states act = act s := charRow_act ha hr hp
  have any (act : State → Result) := row act (mem_anyState _)
  unfold decodeChar
  split
  case h_1 hc =>
    rw [charAct_lt hc]
    split_ifs with hlf
    · subst hlf; exact any _
    · rw [beq_false_of_ne hlf]; exact any _
  case h_2 hp hlt => rw [charAct_comment hlt hp]; exact row .next (by simp [hp])
  case h_3 hc hp => rw [charAct_hash hc hp]; exact any _
  case h_4 hc hp => rw [charAct_org hc hp]; split_ifs <;> exact any _
  case h_5 hc hp => rw [charAct_sep hc hp]; split_ifs <;> exact any _
  case h_6 hc hp => rw [charAct_data hc hp, execHexRow_normal]; exact row _ (by simp [hp])
  case h_7 hc hp => rw [charAct_origin hc hp, execHexRow_origin]; exact row _ (by simp [hp])
  case h_8 hc hp =>
    rw [charAct_bad hc (by simp [hp])]
    exact row (fun s => .next (raiseDecodeError s)) (by simp [hp])
  case h_9 hc hp =>
    rw [charAct_bad hc (by simp [hp])]
    exact row (fun s => .next (raiseDecodeError s)) (by simp [hp])

end actions

/-! ### Where the UI stands is nothing to a character -/

/-- A result with its next state changed. -/
def mapNext (f : State → State) : Result → Result
  | .next t => .next (f t)
  | .fault r => .fault r
  | .refused r => .refused r

section setActivity
variable (u : UiActivity) (s : State)

theorem unlessSplit_setActivity {act : State → State}
    (h : act (setActivity u s) = setActivity u (act s)) :
    unlessSplit (setActivity u s) act = mapNext (setActivity u) (unlessSplit s act) := by
  by_cases hs : SplitUnit s.host.dec
  · rw [unlessSplit_refused hs, unlessSplit_refused (by exact hs)]; rfl
  · rw [unlessSplit_whole hs, unlessSplit_whole (by exact hs), h]; rfl

theorem setDec_setActivity (d : Decoder) :
    setDec d (setActivity u s) = setActivity u (setDec d s) := rfl

theorem storeByte_setActivity (v : Byte) :
    storeByte v (setActivity u s) = setActivity u (storeByte v s) := by
  by_cases h : s.host.dec.cursor < 32768
  · rw [storeByte_inside h, storeByte_inside (by exact h)]; rfl
  · rw [storeByte_past h, storeByte_past (by exact h)]; rfl

theorem dataDigit_setActivity (d : BitVec 4) :
    dataDigit d (setActivity u s) = setActivity u (dataDigit d s) := by
  cases h : s.host.dec.nib with
  | none => rw [dataDigit_first h, dataDigit_first (by exact h)]; rfl
  | some hi =>
    rw [dataDigit_second h, dataDigit_second (by exact h)]
    exact storeByte_setActivity u (setDec { s.host.dec with nib := none } s) _

theorem applyOrigin_setActivity (o : BitVec 16) :
    applyOrigin o (setActivity u s) = setActivity u (applyOrigin o s) := by
  unfold applyOrigin
  split
  · rfl
  · rw [setDec_setActivity, setActivity_host_dec]

theorem leaveOrigin_setActivity : leaveOrigin (setActivity u s) = setActivity u (leaveOrigin s) := by
  cases h : decodeRunning s
  · rw [leaveOrigin, leaveOrigin,
      if_neg (Bool.not_eq_true _ ▸ h), if_neg (by rw [Bool.not_eq_true]; exact h)]
  · rw [leaveOrigin, leaveOrigin, if_pos h, if_pos (by exact h)]; rfl

theorem originDigitAct_setActivity (d : BitVec 4) :
    originDigitAct d (setActivity u s) = setActivity u (originDigitAct d s) := by
  by_cases h : s.host.dec.ocnt = 3
  · rw [originDigitAct_fourth h rfl, originDigitAct_fourth (by exact h) rfl,
      ← leaveOrigin_setActivity, ← applyOrigin_setActivity]
    rfl
  · rw [originDigitAct_shift h, originDigitAct_shift (by exact h)]
    rfl

/-- A mark or a separator, outside a comment guarded against a split unit. -/
theorem mark_setActivity {mark : State → Result} {act : State → State}
    (comment : ∀ {s}, s.host.dec.pstate = .inComment → mark s = .next s)
    (outside : ∀ {s}, s.host.dec.pstate ≠ .inComment → mark s = unlessSplit s act)
    (h : act (setActivity u s) = setActivity u (act s)) :
    mark (setActivity u s) = mapNext (setActivity u) (mark s) := by
  by_cases hp : s.host.dec.pstate = .inComment
  · rw [comment hp, comment (by exact hp)]; rfl
  · rw [outside hp, outside (by exact hp), unlessSplit_setActivity u s h]

/-- A character acts alike wherever the UI stands. -/
theorem charAct_setActivity (c : Byte) :
    charAct c (setActivity u s) = mapNext (setActivity u) (charAct c s) := by
  have next {f : State → State} (h : f (setActivity u s) = setActivity u (f s)) :
      (.next (f (setActivity u s)) : Result) = mapNext (setActivity u) (.next (f s)) :=
    congrArg Host.Outcome.next h
  unfold charAct
  rw [setActivity_host_dec]
  split
  · exact unlessSplit_setActivity u s rfl
  iterate 5 rfl
  iterate 2 exact mark_setActivity u s hashMark_comment hashMark_outside rfl
  iterate 2 exact mark_setActivity u s originMark_comment originMark_outside rfl
  iterate 2 exact mark_setActivity u s separator_comment separator_outside rfl
  · exact next (dataDigit_setActivity u s _)
  · exact next (originDigitAct_setActivity u s _)
  all_goals rfl

end setActivity

theorem decodeRunning_iff {s : State} : decodeRunning s = true ↔ s.host.dec.status = .running :=
  beq_iff_eq

section readChar
variable {s t : State} {c : Byte}

theorem readChar_acts (h : charAct c s = .next t) (u : UiActivity) : readChar c u s =
    .next (setActivity (if t.host.dec.status = .running then u else .between) t) := by
  unfold readChar
  rw [h]
  simp only [decodeRunning_iff]

theorem readChar_refused (h : charAct c s = .refused .splitUnit) (u : UiActivity) :
    readChar c u s = .refused .splitUnit := by
  unfold readChar
  rw [h]

end readChar

/-- The step that reads a character is the row it selects (R131): the row's next state, the UI going on
while the decode does, or the row's refusal. -/
theorem readChar_performs_row {s : State} (hr : s.host.dec.status = .running) (c : Byte)
    (u : UiActivity) :
    (∀ t, exec (decodeChar s.host.dec.pstate c) (setActivity .between s) = .next t →
      readChar c u s =
        .next (setActivity (if t.host.dec.status = .running then u else .between) t)) ∧
    (∀ r, exec (decodeChar s.host.dec.pstate c) (setActivity .between s) = .refused r →
      r = .splitUnit ∧ readChar c u s = .refused .splitUnit) ∧
    ∀ r, exec (decodeChar s.host.dec.pstate c) (setActivity .between s) ≠ .fault r := by
  have hrow : exec (decodeChar s.host.dec.pstate c) (setActivity .between s) =
      mapNext (setActivity .between) (charAct c s) :=
    (exec_decodeChar (s := setActivity .between s) rfl hr).trans (charAct_setActivity _ s c)
  rw [hrow]
  rcases charAct_answers c s with ⟨w, hw⟩ | hw <;> rw [hw, mapNext]
  · refine ⟨fun t ht => ?_, fun r h => by simp at h, fun r => by simp⟩
    injection ht with ht
    rw [readChar_acts hw, ← ht]
    rfl
  · refine ⟨fun t h => by simp at h, fun r h => ?_, fun r => by simp⟩
    injection h with h
    exact ⟨h.symm, readChar_refused hw u⟩

/-! ### The steps of a decode (R131, R144) -/

section decode
variable {s : State} {x : List Byte}

theorem exec_hexDecode_between (ha : s.host.activity = .between) : exec (.hexDecode x) s =
    .next (setActivity (.decoding x) (beginDecode (beginHost (.hexDecode x) s))) := by
  change execHexDecode x s = _
  unfold execHexDecode
  rw [ha]

theorem exec_hexDecode_decoding {rest : List Byte} (ha : s.host.activity = .decoding rest) :
    exec (.hexDecode x) s = decodeStep rest s := by
  change execHexDecode x s = _
  unfold execHexDecode
  rw [ha]

theorem exec_hexDecode_char {c : Byte} {cs : List Byte} (hr : s.host.dec.status = .running)
    (ha : s.host.activity = .decoding (c :: cs)) :
    exec (.hexDecode x) s = readChar c (.decoding cs) s :=
  (exec_hexDecode_decoding ha).trans (if_pos (decodeRunning_iff.2 hr))

theorem exec_hexDecode_end (hr : s.host.dec.status = .running)
    (ha : s.host.activity = .decoding []) : exec (.hexDecode x) s =
      unlessSplit s fun s => setActivity .between (giveBack .success s) :=
  (exec_hexDecode_decoding ha).trans (if_pos (decodeRunning_iff.2 hr))

end decode

/-- Settles O46: the step that reads a character is the row it selects, and the end is guarded against
a split unit. -/
theorem decodePerformsOneRowPerCharacter : Obligations.DecodePerformsOneRowPerCharacter := by
  unfold Obligations.DecodePerformsOneRowPerCharacter
  refine ⟨fun s stream ha => exec_hexDecode_between ha, fun s x hr => ⟨fun c cs ha => ?char,
    fun ha => ?atEnd⟩⟩
  case char => rw [exec_hexDecode_char hr ha]; exact readChar_performs_row hr c _
  case atEnd => rw [exec_hexDecode_end hr ha]; exact ⟨unlessSplit_refused, unlessSplit_whole⟩

end Sys2Proof.Machine
end

section
/-! PROOFS. What characters leave behind and how a stream ends (45_hex_codec.md R137, R143 to R146): the
frame of the codec's rows, and the reading of a stream in which no unit is split. -/

namespace Sys2Proof.Machine

/-! ### What a character leaves behind (R137, R146) -/

/-- A character moves the parser. -/
def Moves (s t : State) : Prop :=
  ∃ d : Decoder, d.status = .running ∧ d.written = s.host.dec.written ∧ t = setDec d s

/-- A character stores a byte at the cursor. -/
def StoresByte (s t : State) : Prop :=
  ∃ (v : Byte) (d : Decoder), d.status = .running ∧
    d.written = insertOffset s.host.dec.cursor s.host.dec.written ∧
    t = setDec d (setScratchByte s.host.dec.cursor v s)

/-- A character ends the decode with the current line. -/
def EndsDecode (s t : State) : Prop :=
  ∃ d : Decoder, d.line = s.host.dec.line ∧ t = raiseDecodeError (setDec d s)

/-- What a character may do while the decode goes on; a byte is stored only where `stores` says so. -/
def CharStep (stores : Prop) (s t : State) : Prop :=
  Moves s t ∨ (stores ∧ StoresByte s t) ∨ EndsDecode s t

section charStep
variable {stores : Prop} {s : State} (hr : s.host.dec.status = .running)
include hr

theorem charStep_moved {d : Decoder} (hd : d.status = s.host.dec.status)
    (hw : d.written = s.host.dec.written) : CharStep stores s (setDec d s) :=
  .inl ⟨d, hd.trans hr, hw, rfl⟩

theorem charStep_stored {v : Byte} {d : Decoder} (hs : stores)
    (hd : d.status = s.host.dec.status)
    (hw : d.written = insertOffset s.host.dec.cursor s.host.dec.written) :
    CharStep stores s (setDec d (setScratchByte s.host.dec.cursor v s)) :=
  .inr (.inl ⟨hs, v, d, hd.trans hr, hw, rfl⟩)

omit hr in
theorem charStep_failed {d : Decoder} (hd : d.line = s.host.dec.line) :
    CharStep stores s (raiseDecodeError (setDec d s)) := .inr (.inr ⟨d, hd, rfl⟩)

theorem charStep_self : CharStep stores s s := charStep_moved hr rfl rfl

theorem charStep_lineEnd (lf : Bool) : Ensures (CharStep stores s) (lineEnd lf s) :=
  ensures_unlessSplit fun _ => charStep_moved hr rfl rfl

theorem charStep_hashMark : Ensures (CharStep stores s) (hashMark s) := by
  by_cases hp : s.host.dec.pstate = .inComment
  · rw [hashMark_comment hp]; exact .next (charStep_self hr)
  · rw [hashMark_outside hp]; exact ensures_unlessSplit fun _ => charStep_moved hr rfl rfl

theorem charStep_originMark : Ensures (CharStep stores s) (originMark s) := by
  by_cases hp : s.host.dec.pstate = .inComment
  · rw [originMark_comment hp]; exact .next (charStep_self hr)
  · rw [originMark_outside hp]; exact ensures_unlessSplit fun _ => charStep_moved hr rfl rfl

theorem charStep_separator : Ensures (CharStep stores s) (separator s) := by
  by_cases hp : s.host.dec.pstate = .inComment
  · rw [separator_comment hp]; exact .next (charStep_self hr)
  · rw [separator_outside hp]; exact ensures_unlessSplit fun _ => charStep_self hr

theorem charStep_dataDigit (d : BitVec 4) (hs : stores) : CharStep stores s (dataDigit d s) := by
  cases hn : s.host.dec.nib with
  | none => rw [dataDigit_first hn]; exact charStep_moved hr rfl rfl
  | some hi =>
    rcases Nat.lt_or_ge s.host.dec.cursor 32768 with hc | hc
    · rw [dataDigit_stored hn hc]; exact charStep_stored hr hs rfl rfl
    · rw [dataDigit_past hn hc]; exact charStep_failed rfl

theorem charStep_originDigitAct (d : BitVec 4) : CharStep stores s (originDigitAct d s) := by
  by_cases hn : s.host.dec.ocnt = 3
  · rw [originDigitAct_fourth hn rfl]
    rcases applyOrigin_cases (originDigit s.host.dec.oacc d) (setDec { s.host.dec with
      oacc := originDigit s.host.dec.oacc d, ocnt := 4 } s) with ⟨-, -, e⟩ | ⟨-, e⟩ <;> rw [e]
    · rw [setDec_setDec, leaveOrigin_running (by exact hr)]; exact charStep_moved hr rfl rfl
    · exact charStep_failed rfl
  · rw [originDigitAct_shift hn]; exact charStep_moved hr rfl rfl

omit hr in
theorem charStep_raiseDecodeError : CharStep stores s (raiseDecodeError s) :=
  charStep_failed (d := s.host.dec) rfl

theorem charStep_charAct (c : Byte) : Ensures (CharStep True s) (charAct c s) := by
  unfold charAct
  split
  · exact charStep_lineEnd hr _
  iterate 5 exact .next (charStep_self hr)
  iterate 2 exact charStep_hashMark hr
  iterate 2 exact charStep_originMark hr
  iterate 2 exact charStep_separator hr
  · exact .next (charStep_dataDigit hr _ trivial)
  · exact .next (charStep_originDigitAct hr _)
  all_goals exact .next charStep_raiseDecodeError

end charStep

section charStep
variable {stores : Prop} {s t : State} (h : CharStep stores s t)
include h

/-- While the decode goes on, a byte is stored at the cursor at most, and then it is on record. -/
theorem CharStep.goesOn (hr : t.host.dec.status = .running) :
    t.store.scratchFill = s.store.scratchFill ∧ ScratchKeptBut s.host.dec.cursor s t ∧
      (¬stores → ScratchKept s t) ∧ (∀ j, j ∈ s.host.dec.written → j ∈ t.host.dec.written) ∧
      ∀ j, j ∉ t.host.dec.written → scratchByte t j = scratchByte s j := by
  rcases h with ⟨d, -, hwritten, rfl⟩ | ⟨hstores, v, d, -, hwritten, rfl⟩ | ⟨d, -, rfl⟩
  · exact ⟨rfl, fun _ _ => rfl, fun _ _ => rfl, fun j => (hwritten ▸ ·), fun _ _ => rfl⟩
  · have kept := scratchKeptBut_setScratchByte s.host.dec.cursor v s
    refine ⟨rfl, kept, (absurd hstores ·), fun j hj => ?_, fun j hj => kept j fun e => hj ?_⟩
    · exact hwritten ▸ mem_insertOffset.2 (.inr hj)
    · exact hwritten ▸ mem_insertOffset.2 (.inl e)
  · cases hr

/-- A decode that does not go on has failed with the line its character stands in; the scratch buffer
holds free values then (U11). -/
theorem CharStep.ended (hr : t.host.dec.status ≠ .running) :
    t.host.dec.status = .failed s.host.dec.line ∧ t.host.ret = .decodeError s.host.dec.line ∧
      ∀ j, scratchByte t j = Config.freeScratchByte (s.store.scratchFill + 1) j := by
  rcases h with ⟨d, hstatus, -, rfl⟩ | ⟨-, v, d, hstatus, -, rfl⟩ | ⟨d, hline, rfl⟩
  · exact absurd hstatus hr
  · exact absurd hstatus hr
  · exact ⟨hline ▸ rfl, hline ▸ rfl, fun _ => rfl⟩

end charStep

/-! ### The frame of the codec -/

/-- The operations that may store a byte: a decode, and the data digits of the rows (R137). -/
def Stores (i : Instr) : Prop := (∃ text, i = .hexDecode text) ∨
  ∃ d h, i = .chHexNormalDigit d ∨ i = .chHexNormalUpper h ∨ i = .chHexNormalLower h

/-- What the codec does to the scratch buffer: a decode that fails frees every byte; else one byte is
stored at most, at the cursor, if the operation stores at all. -/
def ScratchFrame (stores : Prop) (s t : State) : Prop :=
  (s.host.dec.status = .running → t.host.dec.status ≠ .running →
    ∀ j, scratchByte t j = Config.freeScratchByte (s.store.scratchFill + 1) j) ∧
  (s.host.dec.status ≠ .running ∨ t.host.dec.status = .running →
    ScratchKeptBut s.host.dec.cursor s t ∧ (¬stores → ScratchKept s t))

section scratchFrame
variable {stores : Prop} {s t : State}

theorem ScratchFrame.of_kept (hs : ScratchKept s t)
    (hr : s.host.dec.status = .running → t.host.dec.status = .running) : ScratchFrame stores s t :=
  ⟨fun h hn => absurd (hr h) hn, fun _ => ⟨fun j _ => hs j, fun _ => hs⟩⟩

theorem scratchFrame_self : ScratchFrame stores s s := .of_kept (fun _ => rfl) id

theorem CharStep.scratchFrame (hr : s.host.dec.status = .running) (h : CharStep stores s t) :
    ScratchFrame stores s t := by
  refine ⟨fun _ hn => (h.ended hn).2.2, fun hor => ?_⟩
  obtain ⟨-, hbut, hkept, -⟩ := h.goesOn (hor.resolve_left (absurd hr ·))
  exact ⟨hbut, hkept⟩

theorem scratchFrame_charRow {states : List PState} {act : State → Result}
    (h : s.host.dec.status = .running → Ensures (CharStep stores s) (act s)) :
    Ensures (ScratchFrame stores s) (charRow s states act) :=
  ensures_charRow scratchFrame_self fun hrun _ =>
    have hr := decodeRunning_iff.1 hrun
    (h hr).mono fun _ => CharStep.scratchFrame hr

/-- The row a character selects in any parser state keeps the frame, whether it acts or passes. -/
theorem scratchFrame_decodeChar (p : PState) (c : Byte) (s : State) :
    Ensures (ScratchFrame (Stores (decodeChar p c)) s) (exec (decodeChar p c) s) := by
  unfold decodeChar
  split
  case h_1 => split_ifs <;> exact scratchFrame_charRow fun hr => charStep_lineEnd hr _
  case h_2 => exact scratchFrame_charRow fun hr => .next (charStep_self hr)
  case h_3 => exact scratchFrame_charRow charStep_hashMark
  case h_4 => split_ifs <;> exact scratchFrame_charRow charStep_originMark
  case h_5 => split_ifs <;> exact scratchFrame_charRow charStep_separator
  case h_6 =>
    have stores : Stores (decodeHexNormal c) := by
      unfold decodeHexNormal
      split_ifs
      · exact .inr ⟨_, 0, .inl rfl⟩
      · exact .inr ⟨0, _, .inr (.inl rfl)⟩
      · exact .inr ⟨0, _, .inr (.inr rfl)⟩
    rw [execHexRow_normal]
    exact scratchFrame_charRow fun hr => .next (charStep_dataDigit hr _ stores)
  case h_7 =>
    rw [execHexRow_origin]
    exact scratchFrame_charRow fun hr => .next (charStep_originDigitAct hr _)
  all_goals
    exact scratchFrame_charRow (act := fun s => .next (raiseDecodeError s))
      fun _ => .next charStep_raiseDecodeError

theorem scratchFrame_decodeStep (rest : List Byte) (s : State) :
    Ensures (ScratchFrame True s) (decodeStep rest s) := by
  have kept {t} (ht : t.store = s.store) (hd : t.host.dec = s.host.dec) :
      ScratchFrame True s t :=
    .of_kept (fun j => scratchByte_congr (by rw [ht]) (by rw [ht]) j) (hd ▸ id)
  refine ensures_whileDecoding (kept rfl rfl) fun hrun => ?_
  have hr := decodeRunning_iff.1 hrun
  split
  · exact ensures_unlessSplit fun _ => kept rfl rfl
  · exact ensures_readChar (fun _ _ hw => hw)
      ((charStep_charAct hr _).mono fun _ => CharStep.scratchFrame hr)

theorem scratchFrame_hexDecode (text : List Byte) (s : State) :
    Ensures (ScratchFrame True s) (exec (.hexDecode text) s) :=
  ensures_hexDecode scratchFrame_self (.of_kept (fun _ => rfl) fun _ => rfl)
    (scratchFrame_decodeStep · s)

end scratchFrame

/-- A character's row writes what a character may write (R131 to R142). -/
theorem touches_decodeChar (p : PState) (c : Byte) (s : State) :
    Ensures (Touches codecCells s) (exec (decodeChar p c) s) := by
  have row {states : List PState} {act : State → Result}
      (h : Ensures (Touches codecCells s) (act s)) :
      Ensures (Touches codecCells s) (charRow s states act) := ensures_charRow .refl fun _ _ => h
  unfold decodeChar
  split
  case h_1 => split_ifs <;> exact row ((touches_lineEnd s _).mono fun _ h => h.mono (by decide))
  case h_2 => exact row (.next .refl)
  case h_3 => exact row ((touches_hashMark s).mono fun _ h => h.mono (by decide))
  case h_4 => split_ifs <;> exact row ((touches_originMark s).mono fun _ h => h.mono (by decide))
  case h_5 => split_ifs <;> exact row ((touches_separator s).mono fun _ h => h.mono (by decide))
  case h_6 => rw [execHexRow_normal]; exact row (.next (touches_dataDigit s _))
  case h_7 => rw [execHexRow_origin]; exact row (.next (touches_originDigitAct s _))
  all_goals
    exact row (act := fun s => .next (raiseDecodeError s)) (.next (touches_raiseDecodeError s))

/-- The operations of the codec: `DECODE`, `ENCODE` and the rows of the characters. -/
def CodecOp (i : Instr) : Prop :=
  (∃ text, i = .hexDecode text) ∨ (∃ buf, i = .hexEncode buf) ∨ ∃ p c, i = decodeChar p c

theorem touches_hexEncode {s t : State} {buf : List Byte} (h : exec (.hexEncode buf) s = .next t) :
    Touches [.fileOut, .hist] s t := exec_touches (.hexEncode buf) s t h

theorem touches_hexDecode {s t : State} {text : List Byte}
    (h : exec (.hexDecode text) s = .next t) : Touches (.activity :: codecCells) s t :=
  exec_touches (.hexDecode text) s t h

namespace CodecOp
variable {s t : State} {i : Instr}

/-- All that the codec may write: the UI's place by a decode only, the output text by `ENCODE` only. -/
theorem touches (hi : CodecOp i) (h : exec i s = .next t) :
    Touches (.activity :: .fileOut :: codecCells) s t ∧
      ((∀ text, i ≠ .hexDecode text) → t.host.activity = s.host.activity) ∧
      ((∀ buf, i ≠ .hexEncode buf) → t.host.fileOut = s.host.fileOut) := by
  rcases hi with ⟨text, rfl⟩ | ⟨buf, rfl⟩ | ⟨p, c, rfl⟩
  · have ht := touches_hexDecode h
    exact ⟨ht.mono (by decide), fun hn => absurd rfl (hn text), fun _ => ht .fileOut (by decide)⟩
  · have ht := touches_hexEncode h
    exact ⟨ht.mono (by decide), fun _ => ht .activity (by decide), fun hn => absurd rfl (hn buf)⟩
  · have ht := touches_decodeChar p c s t h
    exact ⟨ht.mono (by decide), fun _ => ht .activity (by decide), fun _ => ht .fileOut (by decide)⟩

/-- `ENCODE` stores nothing and hands nothing back. -/
theorem encode_kept {buf : List Byte} (h : exec (.hexEncode buf) s = .next t) :
    ScratchKept s t ∧ t.host.dec = s.host.dec ∧ t.host.ret = s.host.ret := by
  have ht := touches_hexEncode h
  obtain ⟨hbytes, hfill⟩ := ht .scratch (by decide)
  exact ⟨scratchByte_congr hbytes hfill, ht .dec (by decide), ht .ret (by decide)⟩

theorem scratchFrame (hi : CodecOp i) (h : exec i s = .next t) : ScratchFrame (Stores i) s t := by
  rcases hi with ⟨text, rfl⟩ | ⟨buf, rfl⟩ | ⟨p, c, rfl⟩
  · have stores : Stores (.hexDecode text) := .inl ⟨text, rfl⟩
    exact eq_true stores ▸ scratchFrame_hexDecode text s t h
  · obtain ⟨hscratch, hdec, -⟩ := encode_kept h
    exact .of_kept hscratch (hdec ▸ id)
  · exact scratchFrame_decodeChar p c s t h

end CodecOp

/-- Settles O50: the components by the footprint table, the scratch buffer by what a character leaves
behind. -/
theorem codecFrame : Obligations.CodecFrame := by
  unfold Obligations.CodecFrame
  intro s t i hi h
  replace hi : CodecOp i := hi
  obtain ⟨same, hactivity, hfileOut⟩ := hi.touches h
  obtain ⟨hfailed, hgoesOn⟩ := hi.scratchFrame h
  refine ⟨same .env (by decide), same .arb (by decide), same .regs (by decide),
    same .sequencer (by decide), ?edge, same .curBank (by decide), same .name (by decide),
    bankByte_congr (same .bank (by decide)), ?pause, same .idle (by decide),
    same .storage (by decide), same .draws (by decide), same .script (by decide),
    same .cpuLatch (by decide), hactivity, hfileOut, ?encode, hfailed,
    fun hor => ⟨(hgoesOn hor).1, fun hdecode hrow => (hgoesOn hor).2 ?notStores⟩⟩
  case edge =>
    exact (EdgeDetector.mk.injEq ..).mpr ⟨same .pendIo (by decide), same .pendMem (by decide),
      same .prevIorq (by decide), same .prevMreq (by decide)⟩
  case pause =>
    exact (PauseFlags.mk.injEq ..).mpr ⟨same .req (by decide), same .ack (by decide)⟩
  case encode =>
    rintro ⟨buf, rfl⟩
    exact CodecOp.encode_kept h
  case notStores =>
    rintro (⟨text, rfl⟩ | ⟨d, l, hdigit⟩)
    · exact hdecode text rfl
    · obtain ⟨hd, hu, hl⟩ := hrow d l
      exact hdigit.elim hd (·.elim hu hl)

/-! ### A stream read (R131, R146) -/

/-- The characters of `xs`, one after another, lead from `s` to `t`, and the decode goes on all along. -/
def ReadsTo : List Byte → State → State → Prop
  | [], s, t => t = s
  | c :: cs, s, t => ∃ u, charAct c s = .next u ∧ u.host.dec.status = .running ∧ ReadsTo cs u t

namespace ReadsTo
variable {c : Byte} {xs ys : List Byte} {s t u : State}

theorem cons (hact : charAct c s = .next u) (hr : u.host.dec.status = .running)
    (hrest : ReadsTo xs u t) : ReadsTo (c :: xs) s t := ⟨u, hact, hr, hrest⟩

theorem append (h : ReadsTo xs s u) (h' : ReadsTo ys u t) : ReadsTo (xs ++ ys) s t := by
  induction xs generalizing s with
  | nil => cases h; exact h'
  | cons x xs ih =>
    obtain ⟨v, hact, hr, hrest⟩ := h
    exact cons hact hr (ih hrest)

theorem touches (h : ReadsTo xs s t) : Touches codecCells s t := by
  induction xs generalizing s with
  | nil => cases h; exact .refl
  | cons x xs ih =>
    obtain ⟨v, hact, -, hrest⟩ := h
    exact .then (touches_charAct _ _ _ hact) (ih hrest) (by decide)

theorem running (h : ReadsTo xs s t) (hr : s.host.dec.status = .running) :
    t.host.dec.status = .running := by
  induction xs generalizing s with
  | nil => cases h; exact hr
  | cons x xs ih =>
    obtain ⟨v, -, hv, hrest⟩ := h
    exact ih hrest hv

/-- A byte that is not on record is as it was. -/
theorem kept (h : ReadsTo xs s t) (hr : s.host.dec.status = .running) :
    t.store.scratchFill = s.store.scratchFill ∧
      (∀ j, j ∈ s.host.dec.written → j ∈ t.host.dec.written) ∧
      ∀ j, j ∉ t.host.dec.written → scratchByte t j = scratchByte s j := by
  induction xs generalizing s with
  | nil => cases h; exact ⟨rfl, fun _ => id, fun _ _ => rfl⟩
  | cons x xs ih =>
    obtain ⟨v, hact, hv, hrest⟩ := h
    obtain ⟨hfill, -, -, hwritten, hbytes⟩ := (charStep_charAct hr _ _ hact).goesOn hv
    obtain ⟨hfill', hwritten', hbytes'⟩ := ih hrest hv
    exact ⟨hfill'.trans hfill, fun j hj => hwritten' j (hwritten j hj),
      fun j hj => (hbytes' j hj).trans (hbytes j fun hm => hj (hwritten' j hm))⟩

end ReadsTo

/-- The characters of `pre` lead from `s` to where the character `c` ends the decode, in `t`. -/
def FailsAt (pre : List Byte) (c : Byte) (s t : State) : Prop :=
  ∃ u, ReadsTo pre s u ∧ u.host.dec.line = s.host.dec.line + pre.count 0x0A ∧
    charAct c u = .next t ∧ t.host.dec.status ≠ .running

namespace FailsAt
variable {pre : List Byte} {c : Byte} {s t : State}

theorem touches (h : FailsAt pre c s t) : Touches codecCells s t := by
  obtain ⟨u, hread, -, hact, -⟩ := h
  exact hread.touches.then (touches_charAct u c t hact) (by decide)

/-- The error reports the failing character's line (D23). -/
theorem reports (h : FailsAt pre c s t) (hr : s.host.dec.status = .running) :
    t.host.dec.status = .failed (s.host.dec.line + pre.count 0x0A) ∧
      t.host.ret = .decodeError (s.host.dec.line + pre.count 0x0A) ∧
      ∀ j, scratchByte t j = Config.freeScratchByte (s.store.scratchFill + 1) j := by
  obtain ⟨u, hread, hline, hact, hended⟩ := h
  rw [← hline, ← (hread.kept hr).1]
  exact (charStep_charAct (hread.running hr) c t hact).ended hended

end FailsAt

/-! ### A stream without split units (R82, R143) -/

/-- The digits of the present unit that have been read (R136, R138). -/
def unitDigits (d : Decoder) : Nat :=
  match d.pstate with
  | .inOrigin => d.ocnt
  | .normal | .inComment => d.nib.toList.length

theorem unitDigits_origin {d : Decoder} (h : d.pstate = .inOrigin) : unitDigits d = d.ocnt := by
  unfold unitDigits
  rw [h]

theorem unitDigits_outside {d : Decoder} (h : d.pstate ≠ .inOrigin) :
    unitDigits d = d.nib.toList.length := by
  unfold unitDigits
  split <;> [contradiction; rfl; rfl]

/-- What a stream without split units says of its first character, by class and parser state, and of the
characters after it. -/
theorem wholeUnits_cons {p : PState} {n : Nat} {c : Byte} {cs : List Byte}
    (h : wholeUnits p n (c :: cs) = true) :
    (charClass c = .lt → n = 0 ∧ wholeUnits .normal 0 cs = true) ∧
    (charClass c ≠ .lt → p = .inComment → wholeUnits .inComment n cs = true) ∧
    (p ≠ .inComment →
      (charClass c = .hash → n = 0 ∧ wholeUnits .inComment 0 cs = true) ∧
      (charClass c = .org → n = 0 ∧ wholeUnits .inOrigin 0 cs = true) ∧
      (charClass c = .sep → n = 0 ∧ wholeUnits p 0 cs = true)) ∧
    (charClass c = .hex → p = .normal → wholeUnits .normal (1 - n) cs = true) ∧
    (charClass c = .hex → p = .inOrigin →
      (if n = 3 then wholeUnits .normal 0 cs else wholeUnits .inOrigin (n + 1) cs) = true) := by
  have guarded {b : Bool} (hb : (n == 0 && b) = true) : n = 0 ∧ b = true := by simpa using hb
  unfold wholeUnits at h
  refine ⟨fun hc => ?lt, fun hc hp => ?comment, fun hp => ⟨fun hc => ?hash, fun hc => ?org,
    fun hc => ?sep⟩, fun hc hp => ?data, fun hc hp => ?origin⟩
  case lt => rw [hc] at h; exact guarded h
  case comment =>
    rw [hp] at h
    cases hclass : charClass c with
    | lt => exact absurd hclass hc
    | _ => rw [hclass] at h; exact h
  case data => rw [hc, hp] at h; exact h
  case origin => rw [hc, hp] at h; exact h
  all_goals cases p <;> [skip; contradiction; skip] <;> rw [hc] at h <;> exact guarded h

/-- The decoder goes on and no unit is split in the characters to come. -/
def ReadyFor (d : Decoder) (cs : List Byte) : Prop :=
  d.status = .running ∧ (d.pstate = .normal ∨ d.nib = none) ∧ (d.pstate = .inOrigin → d.ocnt ≤ 3) ∧
    wholeUnits d.pstate (unitDigits d) cs = true

theorem readyFor_initial {stream : List Byte} (h : wholeUnits .normal 0 stream = true) :
    ReadyFor Decoder.initial stream :=
  ⟨rfl, .inl rfl, fun hp => PState.noConfusion hp, h⟩

namespace ReadyFor

/-- With no digit of the present unit read, no unit is split. -/
theorem not_splitUnit {d : Decoder} {cs : List Byte} (h : ReadyFor d cs) (h0 : unitDigits d = 0) :
    ¬SplitUnit d := by
  obtain ⟨-, hnib, -, -⟩ := h
  by_cases hp : d.pstate = .inOrigin
  · rw [unitDigits_origin hp] at h0
    exact Machine.not_splitUnit (hnib.resolve_left (by simp [hp])) fun _ => h0
  · rw [unitDigits_outside hp] at h0
    exact Machine.not_splitUnit (by simpa using h0) (absurd · hp)

theorem not_splitUnit_end {d : Decoder} (h : ReadyFor d []) : ¬SplitUnit d :=
  h.not_splitUnit (beq_iff_eq.1 h.2.2.2)

/-- With no digit of the present unit read, no first data digit is pending. -/
theorem nib_none {d : Decoder} {cs : List Byte} (h : ReadyFor d cs) (h0 : unitDigits d = 0) :
    d.nib = none := by
  by_contra hn
  exact h.not_splitUnit h0 (.inl hn)

variable {c : Byte} {cs : List Byte} {s : State}

/-- A line terminator leaves the parser in `Normal` state, and LF counts a line (R132). -/
theorem lineEnd (h : ReadyFor s.host.dec (c :: cs)) (hc : charClass c = .lt) :
    ∃ t, charAct c s = .next t ∧ ReadyFor t.host.dec cs ∧
      t.host.dec.line = s.host.dec.line + [c].count 0x0A := by
  have hready := h
  obtain ⟨hr, -, -, hw⟩ := h
  obtain ⟨h0, hrest⟩ := (wholeUnits_cons hw).1 hc
  have hnib := hready.nib_none h0
  refine ⟨_, (charAct_lt hc).trans (unlessSplit_whole (hready.not_splitUnit h0)),
    ⟨hr, .inl rfl, fun hp => PState.noConfusion hp, ?_⟩, ?_⟩
  · simpa [unitDigits_outside, hnib] using hrest
  · simp [List.count_singleton]

/-- Any other character in a comment is ignored (R142). -/
theorem comment (h : ReadyFor s.host.dec (c :: cs)) (hc : charClass c ≠ .lt)
    (hp : s.host.dec.pstate = .inComment) : ReadyFor s.host.dec cs := by
  obtain ⟨hr, hnib, hocnt, hw⟩ := h
  have hrest := (wholeUnits_cons hw).2.1 hc hp
  exact ⟨hr, hnib, hocnt, by rwa [hp]⟩

/-- A mark or a separator outside a comment is not refused (R133 to R135). -/
theorem mark (h : ReadyFor s.host.dec (c :: cs)) (hp : s.host.dec.pstate ≠ .inComment)
    (hc : charClass c = .hash ∨ charClass c = .org ∨ charClass c = .sep) :
    ∃ t, charAct c s = .next t ∧ ReadyFor t.host.dec cs ∧ t.host.dec.line = s.host.dec.line := by
  have hready := h
  obtain ⟨hr, hnib, hocnt, hw⟩ := h
  obtain ⟨-, -, hmarks, -⟩ := wholeUnits_cons hw
  obtain ⟨hhash, horg, hsep⟩ := hmarks hp
  have whole {act : State → State} (h0 : unitDigits s.host.dec = 0) :
      unlessSplit s act = .next (act s) := unlessSplit_whole (hready.not_splitUnit h0)
  rcases hc with hc | hc | hc
  · obtain ⟨h0, hrest⟩ := hhash hc
    have hnone := hready.nib_none h0
    refine ⟨_, ((charAct_hash hc hp).trans (hashMark_outside hp)).trans (whole h0),
      ⟨hr, .inr hnone, fun ho => PState.noConfusion ho, ?_⟩, rfl⟩
    simpa [unitDigits_outside, hnone] using hrest
  · obtain ⟨h0, hrest⟩ := horg hc
    exact ⟨_, ((charAct_org hc hp).trans (originMark_outside hp)).trans (whole h0),
      ⟨hr, .inr (hready.nib_none h0), fun _ => Nat.zero_le 3, hrest⟩, rfl⟩
  · obtain ⟨h0, hrest⟩ := hsep hc
    exact ⟨s, ((charAct_sep hc hp).trans (separator_outside hp)).trans (whole h0),
      ⟨hr, hnib, hocnt, by rwa [h0]⟩, rfl⟩

/-- A data digit begins a pair or ends one, unless it is past the buffer (R136, R137). -/
theorem dataDigit (h : ReadyFor s.host.dec (c :: cs)) (hc : charClass c = .hex)
    (hp : s.host.dec.pstate = .normal) (d : BitVec 4)
    (hgoes : (dataDigit d s).host.dec.status = .running) :
    ReadyFor (Machine.dataDigit d s).host.dec cs ∧
      (Machine.dataDigit d s).host.dec.line = s.host.dec.line := by
  obtain ⟨hr, -, -, hw⟩ := h
  obtain ⟨-, -, -, hdata, -⟩ := wholeUnits_cons hw
  have hrest := hdata hc hp
  cases hn : s.host.dec.nib with
  | none =>
    rw [dataDigit_first hn]
    exact ⟨⟨hr, .inl hp, fun ho => by simp [hp] at ho,
      by simpa [unitDigits_outside, hp, hn] using hrest⟩, rfl⟩
  | some hi =>
    rcases Nat.lt_or_ge s.host.dec.cursor 32768 with hcur | hcur
    · rw [dataDigit_stored hn hcur]
      exact ⟨⟨hr, .inl hp, fun ho => by simp [hp] at ho,
        by simpa [unitDigits_outside, hp, hn] using hrest⟩, rfl⟩
    · rw [dataDigit_past hn hcur] at hgoes
      cases hgoes

/-- An origin digit goes on with the origin or ends it, unless it is out of range (R138, R139). -/
theorem originDigit (h : ReadyFor s.host.dec (c :: cs)) (hc : charClass c = .hex)
    (hp : s.host.dec.pstate = .inOrigin) (d : BitVec 4)
    (hgoes : (originDigitAct d s).host.dec.status = .running) :
    ReadyFor (originDigitAct d s).host.dec cs ∧
      (originDigitAct d s).host.dec.line = s.host.dec.line := by
  obtain ⟨hr, hnib, hocnt, hw⟩ := h
  have hnone : s.host.dec.nib = none := hnib.resolve_left (by simp [hp])
  obtain ⟨-, -, -, -, horigin⟩ := wholeUnits_cons hw
  have hrest := horigin hc hp
  rw [unitDigits_origin hp] at hrest
  by_cases hn : s.host.dec.ocnt = 3
  · rw [if_pos hn] at hrest
    rcases applyOrigin_cases (Sys2Proof.Machine.originDigit s.host.dec.oacc d) s
      with ⟨lo, hi, -⟩ | ⟨out, -⟩
    · rw [originDigitAct_inRange hn rfl hr lo hi]
      exact ⟨⟨hr, .inl rfl, fun hp => PState.noConfusion hp,
        by simpa [hnone, unitDigits_outside] using hrest⟩, rfl⟩
    · rw [originDigitAct_outOfRange hn rfl out] at hgoes
      cases hgoes
  · rw [if_neg hn] at hrest
    rw [originDigitAct_shift hn]
    have hlt : s.host.dec.ocnt < 3 := Nat.lt_of_le_of_ne (hocnt hp) hn
    exact ⟨⟨hr, .inr hnone, fun _ => hlt, by simpa [hp, unitDigits_origin] using hrest⟩, rfl⟩

/-- The next character is not refused, and while the decode goes on the decoder is ready for those after
it. -/
theorem charAct (h : ReadyFor s.host.dec (c :: cs)) : ∃ t, Machine.charAct c s = .next t ∧
    (t.host.dec.status = .running → ReadyFor t.host.dec cs ∧
      t.host.dec.line = s.host.dec.line + [c].count 0x0A) := by
  by_cases hlt : charClass c = .lt
  · obtain ⟨t, hact, hnext⟩ := h.lineEnd hlt
    exact ⟨t, hact, fun _ => hnext⟩
  have hlf : [c].count 0x0A = 0 := by
    rw [List.count_singleton, if_neg]
    rintro hc
    exact hlt (by rw [eq_of_beq hc]; rfl)
  rw [hlf, Nat.add_zero]
  by_cases hp : s.host.dec.pstate = .inComment
  · exact ⟨s, charAct_comment hlt hp, fun _ => ⟨h.comment hlt hp, rfl⟩⟩
  have marks (hc : charClass c = .hash ∨ charClass c = .org ∨ charClass c = .sep) :
      ∃ t, Machine.charAct c s = .next t ∧ (t.host.dec.status = .running →
        ReadyFor t.host.dec cs ∧ t.host.dec.line = s.host.dec.line) := by
    obtain ⟨t, hact, hnext⟩ := h.mark hp hc
    exact ⟨t, hact, fun _ => hnext⟩
  cases hc : charClass c with
  | lt => exact absurd hc hlt
  | hash => exact marks (.inl hc)
  | org => exact marks (.inr (.inl hc))
  | sep => exact marks (.inr (.inr hc))
  | bad => exact ⟨_, charAct_bad hc hp, fun hgoes => by cases hgoes⟩
  | hex =>
    cases hs : s.host.dec.pstate with
    | normal => exact ⟨_, charAct_data hc hs, h.dataDigit hc hs _⟩
    | inOrigin => exact ⟨_, charAct_origin hc hs, h.originDigit hc hs _⟩
    | inComment => exact absurd hs hp

/-- Characters of a stream without split units are read on, or one of them ends the decode. -/
theorem reads {xs rest : List Byte} (h : ReadyFor s.host.dec (xs ++ rest)) :
    (∃ t, ReadsTo xs s t ∧ ReadyFor t.host.dec rest) ∨
      ∃ pre c post t, xs = pre ++ c :: post ∧ FailsAt pre c s t := by
  induction xs generalizing s with
  | nil => exact .inl ⟨s, rfl, h⟩
  | cons x xs ih =>
    obtain ⟨u, hact, hnext⟩ := h.charAct
    by_cases hr : u.host.dec.status = .running
    · obtain ⟨hready, hline⟩ := hnext hr
      rcases ih hready with ⟨t, hread, hready⟩ | ⟨pre, c, post, t, rfl, v, hread, hline', hfail⟩
      · exact .inl ⟨t, .cons hact hr hread, hready⟩
      · refine .inr ⟨x :: pre, c, post, t, rfl, v, .cons hact hr hread, ?_, hfail⟩
        rw [hline', hline, Nat.add_assoc, ← List.count_append]
        rfl
    · exact .inr ⟨[], x, xs, u, rfl, s, rfl, rfl, hact, hr⟩

end ReadyFor

/-! ### An operation that reads a stream, one character a performance (log 18) -/

/-- While the decode goes on and `n` characters are read, at most `limit`, the operation `i` reads the
next one; `place` is where the UI stands before the characters that are left. -/
def ReadsStream (i : Instr) (place : List Byte → Nat → UiActivity) (storage : Option Nat)
    (limit : Nat) : Prop :=
  ∀ (s : State) (c : Byte) (cs : List Byte) (n : Nat), n < limit → s.host.dec.status = .running →
    s.host.storage = storage → s.host.activity = place (c :: cs) n →
    exec i s = readChar c (place cs (n + 1)) s

theorem readsStream_hexDecode (x : List Byte) (storage : Option Nat) (limit : Nat) :
    ReadsStream (.hexDecode x) (fun cs _ => .decoding cs) storage limit :=
  fun _ _ _ _ _ hr _ ha => exec_hexDecode_char hr ha

/-- Some performances, then one more. -/
theorem repeatExec_snoc {i : Instr} {n : Nat} {s t u : State} (h : repeatExec i n s = .next t)
    (h' : exec i t = .next u) : repeatExec i (n + 1) s = .next u :=
  (repeatExec_add n 1 h).trans (repeatExec_one h')

namespace ReadsStream
variable {i : Instr} {place : List Byte → Nat → UiActivity} {storage : Option Nat} {limit n : Nat}
  {s t u : State} {c : Byte} {xs cs rest : List Byte}

/-- One character, wherever its action leads. -/
theorem char (h : ReadsStream i place storage limit) (hn : n < limit)
    (hr : s.host.dec.status = .running) (hs : s.host.storage = storage)
    (hact : charAct c s = .next t) : exec i (setActivity (place (c :: cs) n) s) =
      .next (setActivity (if t.host.dec.status = .running then place cs (n + 1) else .between) t) := by
  have hact' := charAct_setActivity (place (c :: cs) n) s c
  rw [hact] at hact'
  rw [h (setActivity (place (c :: cs) n) s) c cs n hn hr hs rfl, readChar_acts hact']
  rfl

/-- The characters read, one a performance. -/
theorem reads (h : ReadsStream i place storage limit) (hread : ReadsTo xs s t)
    (hr : s.host.dec.status = .running) (hs : s.host.storage = storage)
    (hn : n + xs.length ≤ limit) :
    repeatExec i xs.length (setActivity (place (xs ++ rest) n) s) =
      .next (setActivity (place rest (n + xs.length)) t) := by
  induction xs generalizing n s with
  | nil => cases hread; rfl
  | cons c cs ih =>
    obtain ⟨u, hact, hu, hrest⟩ := hread
    rw [List.length_cons] at hn ⊢
    have hstep := h.char (cs := cs ++ rest) (n := n) (by omega) hr hs hact
    rw [if_pos hu] at hstep
    have hstorage := (touches_charAct _ _ _ hact) .storage (by decide)
    rw [List.cons_append, repeatExec_succ _ hstep, ih hrest hu (Eq.trans hstorage hs) (by omega),
      Nat.add_assoc, Nat.add_comm 1]

/-- The characters up to the one that ends the decode, which is the last performance. -/
theorem fails {pre post : List Byte} (h : ReadsStream i place storage limit)
    (hfail : FailsAt pre c s t) (hr : s.host.dec.status = .running)
    (hs : s.host.storage = storage) (hn : n + pre.length < limit) :
    repeatExec i (pre.length + 1) (setActivity (place (pre ++ c :: post) n) s) =
      .next (setActivity .between t) := by
  obtain ⟨u, hread, -, hact, hended⟩ := hfail
  have hstorage := hread.touches .storage (by decide)
  have hlast := h.char (cs := post) hn (hread.running hr) (Eq.trans hstorage hs) hact
  rw [if_neg hended] at hlast
  exact repeatExec_snoc (h.reads hread hr hs (Nat.le_of_lt hn)) hlast

end ReadsStream

/-- A whole stream read, with nothing between the performances: the beginning, one a character, the
end (log 18). -/
theorem repeatExec_hexDecode {s t : State} {stream : List Byte} (ha : s.host.activity = .between)
    (hread : ReadsTo stream (beginDecode (beginHost (.hexDecode stream) s)) t)
    (hwhole : ¬SplitUnit t.host.dec) : repeatExec (.hexDecode stream) (stream.length + 2) s =
      .next (setActivity .between (giveBack .success t)) := by
  have hsteps := (readsStream_hexDecode stream s.host.storage stream.length).reads (rest := [])
    (n := 0) hread rfl rfl (Nat.le_of_eq (Nat.zero_add _))
  rw [List.append_nil] at hsteps
  have hlast := (exec_hexDecode_end (s := setActivity (.decoding []) t) (x := stream)
    (hread.running rfl) rfl).trans (unlessSplit_whole hwhole)
  exact (repeatExec_succ _ (exec_hexDecode_between ha)).trans (repeatExec_snoc hsteps hlast)

/-- A stream read up to the character that ends the decode (R146). -/
theorem repeatExec_hexDecode_fails {s t : State} {pre post : List Byte} {c : Byte}
    (ha : s.host.activity = .between)
    (hfail : FailsAt pre c (beginDecode (beginHost (.hexDecode (pre ++ c :: post)) s)) t) :
    repeatExec (.hexDecode (pre ++ c :: post)) (pre.length + 2) s =
      .next (setActivity .between t) :=
  (repeatExec_succ _ (exec_hexDecode_between ha)).trans
    ((readsStream_hexDecode _ s.host.storage (pre.length + 1)).fails (n := 0) hfail rfl rfl (by omega))

/-- Settles O47: the decoder is ready for a stream without split units, which is read to its end or to
the character that fails. -/
theorem decodeSucceedsOrReportsTheLine : Obligations.DecodeSucceedsOrReportsTheLine := by
  unfold Obligations.DecodeSucceedsOrReportsTheLine
  intro s stream ha hw
  have hready : ReadyFor Decoder.initial (stream ++ []) := by
    rw [List.append_nil]
    exact readyFor_initial hw
  rcases ReadyFor.reads (s := beginDecode (beginHost (.hexDecode stream) s)) hready with
    ⟨t, hread, hend⟩ | ⟨pre, c, post, t, rfl, hfail⟩
  case inl =>
    obtain ⟨-, -, hkept⟩ := hread.kept rfl
    exact ⟨_, _, repeatExec_hexDecode ha hread hend.not_splitUnit_end, rfl,
      bankByte_congr (hread.touches .bank (by decide)), .inl ⟨rfl, hend.1, rfl, hkept⟩⟩
  case inr =>
    have hreports := hfail.reports rfl
    rw [show (beginDecode (beginHost _ s)).host.dec.line = 1 from rfl, Nat.add_comm] at hreports
    obtain ⟨hstatus, hret, hfree⟩ := hreports
    exact ⟨_, _, repeatExec_hexDecode_fails ha hfail, rfl,
      bankByte_congr (hfail.touches .bank (by decide)),
      .inr ⟨pre, post, c, rfl, rfl, hstatus, hret, hfree⟩⟩

end Sys2Proof.Machine
end

section
/-! PROOFS. The text of a buffer (45_hex_codec.md R147, R148): where each character of it stands, and
that the decoder reads the buffer back out of it (R152). -/

namespace Sys2Proof.Machine

/-! ### Where the characters stand (R147, R148) -/

/-- Before every byte but the first stands one character (R148). -/
theorem sepBefore_succ (i : Nat) :
    sepBefore (i + 1) = [if (i + 1) % 16 = 0 then 0x0A else 0x20] := by
  rw [sepBefore, if_neg (Nat.succ_ne_zero i)]
  split_ifs <;> simp_all [Config.bytesPerLine, Config.lineBreak]

theorem length_encodeFrom_succ (vs : List Byte) (i : Nat) :
    (encodeFrom (i + 1) vs).length = 3 * vs.length := by
  induction vs generalizing i with
  | nil => rfl
  | cons v vs ih =>
    simp [encodeFrom, encodeByte, sepBefore_succ, hex2, ih]
    omega

/-- Three characters a byte, but none before the first (R147, R148). -/
theorem length_encodeText {buf : List Byte} (h : buf ≠ []) :
    (encodeText buf).length + 1 = 3 * buf.length := by
  obtain ⟨v, vs, rfl⟩ := List.exists_cons_of_ne_nil h
  simp [encodeText, encodeFrom, encodeByte, sepBefore, hex2, length_encodeFrom_succ]
  omega

/-- After the separator of its first byte the text of bytes `i`, `i + 1`, … gives three characters to
each byte: its two digits and the separator of the next (R147, R148). -/
theorem encodeFrom_getElem? {vs : List Byte} {k : Nat} {v : Byte} (hv : vs[k]? = some v) (i : Nat) :
    let text := (encodeFrom i vs).drop (sepBefore i).length
    text[3 * k]? = some (BitVec.ofNat 8 (hexCode (v.toNat / 16))) ∧
      text[3 * k + 1]? = some (BitVec.ofNat 8 (hexCode (v.toNat % 16))) ∧
      (k + 1 < vs.length →
        text[3 * k + 2]? = some (if (i + k + 1) % 16 = 0 then 0x0A else 0x20)) := by
  induction vs generalizing i k with
  | nil => simp at hv
  | cons w vs ih =>
    simp only [encodeFrom, encodeByte, List.append_assoc, List.drop_left, hex2_eq_hexCode]
    cases k with
    | zero =>
      obtain rfl : w = v := by simpa using hv
      refine ⟨rfl, rfl, fun hlt => ?_⟩
      obtain ⟨x, xs, rfl⟩ := List.exists_cons_of_length_pos (l := vs) (by simpa using hlt)
      simp [encodeFrom, encodeByte, sepBefore_succ]
    | succ k =>
      have hnext := ih (k := k) (by simpa using hv) (i + 1)
      simp only [sepBefore_succ, List.length_singleton, List.getElem?_drop] at hnext
      obtain ⟨hhigh, hlow, hsep⟩ := hnext
      have skip (n : Nat) (x y : Byte) (text : List Byte) :
          ([x, y] ++ text)[3 * (k + 1) + n]? = text[1 + (3 * k + n)]? := by
        rw [show 3 * (k + 1) + n = 1 + (3 * k + n) + 1 + 1 by omega]
        rfl
      refine ⟨(skip 0 _ _ _).trans hhigh, (skip 1 _ _ _).trans hlow, fun hlt => ?_⟩
      rw [skip 2, hsep (by simpa using hlt), show i + 1 + k + 1 = i + (k + 1) + 1 by omega]

theorem exec_hexEncode_between {s : State} (ha : s.host.activity = .between) (buf : List Byte) :
    exec (.hexEncode buf) s = if buf.length = 32768 then
      .next { beginHost (.hexEncode buf) s with host.fileOut := encodeText buf }
    else .refused .bufferSize := by
  dsimp only [exec, execHexEncode]
  rw [whenFree_between ha]
  rfl

theorem length_encodeText_whole {buf : List Byte} (h : buf.length = 32768) :
    (encodeText buf).length = 98303 := by
  have hlen := length_encodeText (buf := buf) fun hnil => by simp [hnil] at h
  omega

/-- Settles O48: a whole buffer is encoded, and its characters stand where those of its bytes do. -/
theorem encodeWritesSixteenBytesALine : Obligations.EncodeWritesSixteenBytesALine := by
  unfold Obligations.EncodeWritesSixteenBytesALine
  refine fun s buf ha => ⟨fun hlen => ?whole, fun hlen => ?refused⟩
  case whole =>
    refine ⟨encodeText buf, ?_, length_encodeText_whole hlen, fun i v hv => ?_⟩
    · rw [exec_hexEncode_between ha, if_pos hlen]
      rfl
    · obtain ⟨hhigh, hlow, hsep⟩ := encodeFrom_getElem? hv 0
      refine ⟨hhigh, hlow, fun hi => (hsep (by omega)).trans ?_⟩
      rw [Nat.zero_add]
  case refused => rw [exec_hexEncode_between ha, if_neg hlen]

/-! ### The text read back (R152) -/

theorem charClass_hexChar : ∀ d : BitVec 4, charClass (hexChar d) = .hex := by decide

theorem hexval_hexChar : ∀ d : BitVec 4, hexval (hexChar d) = d := by decide

/-- The two digits of a byte make the byte. -/
theorem byteOfDigits_extract (v : Byte) :
    byteOfDigits (v.extractLsb' 4 4) (v.extractLsb' 0 4) = v := by
  apply BitVec.eq_of_toNat_eq
  rw [byteOfDigits_toNat, BitVec.extractLsb'_toNat, BitVec.extractLsb'_toNat,
    Nat.shiftRight_eq_div_pow, Nat.shiftRight_zero]
  omega

/-- The decode goes on and stands before the first digit of the byte for offset `k`. -/
def AtByte (k : Nat) (d : Decoder) : Prop :=
  d.status = .running ∧ d.pstate = .normal ∧ d.nib = none ∧ d.cursor = k

namespace AtByte
variable {k : Nat} {s : State}

theorem not_splitUnit {d : Decoder} (h : AtByte k d) : ¬SplitUnit d := by
  obtain ⟨-, hp, hn, -⟩ := h
  exact Sys2Proof.Machine.not_splitUnit hn fun ho => by simp [hp] at ho

/-- A separator stores nothing (R132, R135). -/
theorem readsTo_sepBefore (h : AtByte k s.host.dec) (i : Nat) : ∃ t, ReadsTo (sepBefore i) s t ∧
    AtByte k t.host.dec ∧ t.host.dec.written = s.host.dec.written ∧ t.store = s.store := by
  have whole {act : State → State} := unlessSplit_whole (act := act) h.not_splitUnit
  have hat := h
  obtain ⟨hr, hp, hn, hc⟩ := h
  unfold sepBefore
  split_ifs
  · exact ⟨s, rfl, hat, rfl, rfl⟩
  · exact ⟨_, .cons ((charAct_lt rfl).trans whole) hr rfl, ⟨hr, rfl, hn, hc⟩, rfl, rfl⟩
  · have hsep : charAct 0x20 s = .next s :=
      ((charAct_sep rfl (by simp [hp])).trans (separator_outside (by simp [hp]))).trans whole
    exact ⟨s, .cons hsep hr rfl, hat, rfl, rfl⟩

/-- Two digits store their byte at the cursor (R136, R137). -/
theorem readsTo_hex2 (h : AtByte k s.host.dec) (hk : k < 32768) (v : Byte) :
    ReadsTo (hex2 v) s (setDec { s.host.dec with
        nib := none, cursor := k + 1, written := insertOffset k s.host.dec.written }
      (setScratchByte k v s)) := by
  obtain ⟨hr, hp, hn, rfl⟩ := h
  have hfirst : charAct (hexChar (v.extractLsb' 4 4)) s =
      .next (setDec { s.host.dec with nib := some (v.extractLsb' 4 4) } s) := by
    rw [charAct_data (charClass_hexChar _) hp, hexval_hexChar, dataDigit_first hn]
  refine .cons hfirst hr (.cons ?_ (by exact hr) rfl)
  rw [charAct_data (charClass_hexChar _) (by exact hp), hexval_hexChar,
    dataDigit_stored (by rfl) (by exact hk), byteOfDigits_extract]
  rfl

/-- The text of one byte, read (R152). -/
theorem readsTo_encodeByte (h : AtByte k s.host.dec) (hk : k < 32768) (i : Nat) (v : Byte) :
    ∃ t, ReadsTo (encodeByte i v) s t ∧ AtByte (k + 1) t.host.dec ∧
      (∀ j, j ∈ t.host.dec.written ↔ j = k ∨ j ∈ s.host.dec.written) ∧
      scratchByte t k = v ∧ ScratchKeptBut k s t := by
  obtain ⟨u, hread, hu, hwritten, hstore⟩ := h.readsTo_sepBefore i
  have hread' := hread.append (hu.readsTo_hex2 hk v)
  obtain ⟨hr, hp, -, -⟩ := hu
  refine ⟨_, hread', ⟨hr, hp, rfl, rfl⟩, fun j => ?_,
    scratchByte_setScratchByte_same u k v, fun j hj => ?_⟩
  · rw [← hwritten]
    exact mem_insertOffset
  · exact (scratchByte_setScratchByte_other u v hj).trans
      (scratchByte_congr (by rw [hstore]) (by rw [hstore]) j)

/-- The text of bytes `i`, `i + 1`, … read into the offsets from `k` on. -/
theorem readsTo_encodeFrom (vs : List Byte) (h : AtByte k s.host.dec)
    (hk : k + vs.length ≤ 32768) (i : Nat) :
    ∃ t, ReadsTo (encodeFrom i vs) s t ∧ AtByte (k + vs.length) t.host.dec ∧
      (∀ j, j ∈ t.host.dec.written ↔ (k ≤ j ∧ j < k + vs.length) ∨ j ∈ s.host.dec.written) ∧
      (∀ j v, vs[j]? = some v → scratchByte t (k + j) = v) ∧
      ∀ j, j < k → scratchByte t j = scratchByte s j := by
  induction vs generalizing k s i with
  | nil => exact ⟨s, rfl, h, fun j => by simp, fun j v hj => by simp at hj, fun _ _ => rfl⟩
  | cons v vs ih =>
    rw [List.length_cons] at hk ⊢
    obtain ⟨u, hread, hu, hwritten, hbyte, hkept⟩ := h.readsTo_encodeByte (by omega) i v
    obtain ⟨t, hread', ht, hwritten', hbytes, hkept'⟩ := ih hu (by omega) (i + 1)
    refine ⟨t, hread.append hread', by rwa [Nat.add_right_comm] at ht, fun j => ?_, fun j w hj => ?_,
      fun j hj => (hkept' j (by omega)).trans (hkept j (by omega))⟩
    · rw [hwritten', hwritten, ← or_assoc]
      exact or_congr_left (by omega)
    · cases j with
      | zero =>
        obtain rfl : v = w := by simpa using hj
        exact (hkept' k (by omega)).trans hbyte
      | succ j =>
        rw [show k + (j + 1) = k + 1 + j by omega]
        exact hbytes j w (by simpa using hj)

end AtByte

/-- A decode that begins reads the text of a buffer to its end; the buffer stands in the scratch bytes
then, and every offset is on record. -/
theorem readsTo_encodeText {s : State} {buf : List Byte} (hd : s.host.dec = Decoder.initial)
    (hlen : buf.length = 32768) : ∃ t, ReadsTo (encodeText buf) s t ∧ AtByte 32768 t.host.dec ∧
      (∀ j, j ∈ t.host.dec.written ↔ j < 32768) ∧
      ∀ j v, buf[j]? = some v → scratchByte t j = v := by
  have hinitial : AtByte 0 s.host.dec := by rw [hd]; exact ⟨rfl, rfl, rfl, rfl⟩
  obtain ⟨t, hread, ht, hwritten, hbytes, -⟩ :=
    hinitial.readsTo_encodeFrom buf (Nat.le_of_eq ((Nat.zero_add _).trans hlen)) 0
  rw [Nat.zero_add, hlen] at ht hwritten
  refine ⟨t, hread, ht, fun j => ?_, fun j v hj => ?_⟩
  · rw [hwritten, hd]
    simp [Decoder.initial]
  · rw [← hbytes j v hj, Nat.zero_add]

/-- Settles O49: the text of a buffer is read to its end, each byte by its two digits, by induction on
the buffer. -/
theorem encodeThenDecodeGivesTheBufferBack : Obligations.EncodeThenDecodeGivesTheBufferBack := by
  unfold Obligations.EncodeThenDecodeGivesTheBufferBack
  intro s buf ha hlen
  have hencode := exec_hexEncode_between ha buf
  rw [if_pos hlen] at hencode
  obtain ⟨t, hread, ht, hwritten, hbytes⟩ := readsTo_encodeText
    (s := beginDecode (beginHost (.hexDecode (encodeText buf))
      { beginHost (.hexEncode buf) s with host.fileOut := encodeText buf })) rfl hlen
  have hdecode := repeatExec_hexDecode (by exact ha) hread ht.not_splitUnit
  rw [length_encodeText_whole hlen] at hdecode
  obtain ⟨hr, -, -, hcursor⟩ := ht
  exact ⟨_, _, hencode, hdecode, rfl, rfl, hr, hcursor, hwritten, hbytes⟩

end Sys2Proof.Machine
end

section
/-! PROOFS. A whole save (45_hex_codec.md R150): the fill of the scratch buffer through the permutation,
its encoding, and what FILE takes of the text (60_exceptions.md R175). -/

namespace Sys2Proof.Machine

/-! ### The first `i` bytes of a save -/

/-- The byte that a save begun in `s` takes for offset `a` (R150). -/
def saveSource (s : State) (a : Nat) : Byte :=
  bankByte s s.store.curBank (remapAddr (BitVec.ofNat 15 a))

/-- The text of the first `i` bytes. -/
def savedText (s : State) (i : Nat) : List Byte :=
  encodeText ((List.range i).map (saveSource s))

theorem savedText_succ (s : State) (i : Nat) :
    savedText s (i + 1) = savedText s i ++ encodeByte i (saveSource s i) := by
  rw [savedText, List.range_succ, List.map_append, List.map_singleton, encodeText, encodeFrom_append,
    List.length_map, List.length_range, Nat.zero_add, savedText, encodeText]

/-- In `u` the scratch bytes below `i` are those of the save; every other is as in `s`. -/
def FilledBelow (i : Nat) (s u : State) : Prop :=
  ∀ a, scratchByte u a = if a < i then saveSource s a else scratchByte s a

section filled
variable {s u v : State} {i : Nat}

theorem filledBelow_zero (h : Same s u .scratch) : FilledBelow 0 s u := fun a => by
  obtain ⟨hscratch, hfill⟩ := h
  rw [scratchByte_congr hscratch hfill, if_neg (Nat.not_lt_zero a)]

theorem FilledBelow.congr (h : FilledBelow i s u) (hv : Same u v .scratch) :
    FilledBelow i s v := fun a => by
  obtain ⟨hscratch, hfill⟩ := hv
  exact (scratchByte_congr hscratch hfill a).trans (h a)

/-- One byte more, of a bank that reads as when the save began. -/
theorem FilledBelow.saveStep (h : FilledBelow i s u) (hb : BankKept s u) (hi : i < 32768) :
    FilledBelow (i + 1) s (saveStep s.store.curBank i u) := by
  rw [saveStep_byte hi]
  intro a
  change scratchByte (setScratchByte i _ u) a = _
  by_cases ha : a = i
  · subst ha
    rw [scratchByte_setScratchByte_same, if_pos (Nat.lt_succ_self a)]
    exact hb _ _
  · have hlt : a < i ↔ a < i + 1 := by omega
    rw [scratchByte_setScratchByte_other u _ ha, h a, if_congr hlt rfl rfl]

/-- Filled to its end, the buffer is the bank through the permutation, and nothing else is written. -/
theorem FilledBelow.whole (h : FilledBelow 32768 s u) :
    (∀ a : BankIndex, scratchByte u a.toNat = bankByte s s.store.curBank (remapAddr a)) ∧
      ∀ i, 32768 ≤ i → scratchByte u i = scratchByte s i := by
  refine ⟨fun a => ?_, fun i hi => (h i).trans (if_neg (Nat.not_lt.2 hi))⟩
  rw [h, if_pos a.isLt, saveSource, BitVec.ofNat_toNat, BitVec.setWidth_eq]

/-- The encoding of a filled buffer, one byte more. -/
theorem FilledBelow.encodeStep (h : FilledBelow 32768 s u) (hi : i < 32768) :
    encodeStep i (savedText s i) u = setActivity (.encoding (i + 1) (savedText s (i + 1))) u := by
  rw [encodeStep_byte hi, h i, if_pos hi, savedText_succ]

end filled

/-! ### A save with nothing between its steps -/

section save
variable {s : State}

/-- The first `k + 1` performances: each has stored its byte, and nothing else. -/
theorem repeatExec_save_fill (ha : s.host.activity = .between) (k : Nat) (hk : k < 32768) :
    ∃ u, repeatExec .save (k + 1) s = .next u ∧
      { u with store.scratch := s.store.scratch } = { s with
        host.activity := .saving s.store.curBank (k + 1)
        book.hist := s.book.hist ++ [Event.host .save] } ∧
      FilledBelow (k + 1) s u := by
  induction k with
  | zero =>
    refine ⟨_, repeatExec_one (exec_save_between ha), ?_,
      (filledBelow_zero (u := beginHost .save s) ⟨rfl, rfl⟩).saveStep (fun _ _ => rfl) hk⟩
    rw [saveStep_byte hk]
    rfl
  | succ k ih =>
    obtain ⟨u, hu, hframe, hfilled⟩ := ih (by omega)
    have hact : u.host.activity = .saving s.store.curBank (k + 1) :=
      congrArg (·.host.activity) hframe
    refine ⟨_, repeatExec_snoc hu (exec_save_saving hact), ?_,
      hfilled.saveStep (bankByte_congr (congrArg (·.store.bank) hframe)) hk⟩
    rw [saveStep_byte hk]
    exact congrArg (setActivity (.saving s.store.curBank (k + 1 + 1))) hframe

/-- The next `k + 1` performances encode a byte each. -/
theorem repeatExec_save_encode {u : State} (hact : u.host.activity = .saving s.store.curBank 32768)
    (hfilled : FilledBelow 32768 s u) (k : Nat) (hk : k < 32768) :
    repeatExec .save (k + 1) u =
      .next (setActivity (.encoding (k + 1) (savedText s (k + 1))) u) := by
  induction k with
  | zero => exact repeatExec_one ((exec_save_filled hact (Nat.le_refl _)).trans
      (congrArg Host.Outcome.next (hfilled.encodeStep hk)))
  | succ k ih =>
    have hstep := (hfilled.congr ⟨rfl, rfl⟩ : FilledBelow 32768 s
      (setActivity (.encoding (k + 1) (savedText s (k + 1))) u)).encodeStep hk
    exact repeatExec_snoc (ih (by omega)) ((exec_save_encoding rfl).trans
      (congrArg Host.Outcome.next hstep))

/-- The last performance hands the whole text to FILE. -/
theorem repeatExec_save (ha : s.host.activity = .between) :
    ∃ u, repeatExec .save 65537 s = .next (setActivity .between (handToFile (savedText s 32768) u)) ∧
      { setActivity .between u with store.scratch := s.store.scratch } = { s with
        book.hist := s.book.hist ++ [Event.host .save] } ∧
      FilledBelow 32768 s u := by
  obtain ⟨u, hu, hframe, hfilled⟩ := repeatExec_save_fill ha 32767 (by decide)
  have hact : u.host.activity = .saving s.store.curBank 32768 :=
    congrArg (·.host.activity) hframe
  have hencode := repeatExec_save_encode hact hfilled 32767 (by decide)
  have hlast := (exec_save_encoding (s := setActivity (.encoding 32768 (savedText s 32768)) u)
    rfl).trans (congrArg Host.Outcome.next (encodeStep_last (Nat.le_refl _)))
  refine ⟨_, ((repeatExec_add 32768 32769 hu).trans (repeatExec_snoc hencode hlast)), ?_,
    hfilled.congr ⟨rfl, rfl⟩⟩
  refine (congrArg (setActivity .between) hframe).trans ?_
  -- the UI is back where it stood in `s`
  rw [← ha]
  rfl

section handed
variable {u : State} {text : List Byte} {es : List Event}
  (hframe : { setActivity .between u with store.scratch := s.store.scratch } =
    { s with book.hist := es })
include hframe

theorem frame_handToFile_success (hs : s.host.storage = none) :
    { setActivity .between (handToFile text u) with store.scratch := s.store.scratch } =
      { s with host.fileOut := text, host.ret := .success, book.hist := es } := by
  have hu : u.host.storage = s.host.storage := congrArg (·.host.storage) hframe
  rw [handToFile_success (hu.trans hs)]
  exact congrArg (fun w : State => giveBack .success { w with host.fileOut := text }) hframe

theorem frame_handToFile_storageError {k : Nat} (hs : s.host.storage = some k) :
    { setActivity .between (handToFile text u) with store.scratch := s.store.scratch } =
      { s with host.fileOut := text.take k, host.ret := .storageError, book.hist := es } := by
  have hu : u.host.storage = s.host.storage := congrArg (·.host.storage) hframe
  rw [handToFile_storageError (hu.trans hs)]
  exact congrArg (fun w : State => giveBack .storageError { w with host.fileOut := text.take k })
    hframe

end handed

end save

/-! ### A save with other agents' steps between its own -/

/-- FILE took the text, or the part it took is written (R175). -/
def HandedToFile (text : List Byte) (u : State) : Prop :=
  (u.host.ret = .success ∧ u.host.fileOut = text) ∨
    (u.host.ret = .storageError ∧ ∃ k, u.host.fileOut = text.take k)

theorem handedToFile (text : List Byte) (u : State) : HandedToFile text (handToFile text u) := by
  cases hs : u.host.storage with
  | none =>
    rw [handToFile_success hs]
    exact .inl ⟨rfl, rfl⟩
  | some k =>
    rw [handToFile_storageError hs]
    exact .inr ⟨rfl, k, rfl⟩

/-- Where a save that was begun in `s` stands: before byte `i` of its fill, before byte `i` of its
encoding, or at its end. -/
def SaveReached (s u : State) : Prop :=
  (∃ i, i ≤ 32768 ∧ u.host.activity = .saving s.store.curBank i ∧ FilledBelow i s u) ∨
    (∃ i, i ≤ 32768 ∧ u.host.activity = .encoding i (savedText s i) ∧ FilledBelow 32768 s u) ∨
    (u.host.activity = .between ∧ HandedToFile (savedText s 32768) u)

/-- While a save is under way the UI goes on with it. -/
theorem uiNext_save {u : State} {b : BankNumber} {i : Nat} {text : List Byte}
    (h : u.host.activity = .saving b i ∨ u.host.activity = .encoding i text) :
    uiNext u = some .save := by
  unfold uiNext
  rcases h with h | h <;> rw [h]

theorem uiNext_between {u : State} (h : u.host.activity = .between) : uiNext u = none := by
  unfold uiNext
  rw [h]

namespace SaveReached
variable {s u v : State}

theorem congr (h : SaveReached s u) (ha : Same u v .activity) (hs : Same u v .scratch)
    (hr : Same u v .ret) (hf : Same u v .fileOut) : SaveReached s v := by
  have ha : v.host.activity = u.host.activity := ha
  have hr : v.host.ret = u.host.ret := hr
  have hf : v.host.fileOut = u.host.fileOut := hf
  rcases h with ⟨i, hi, hact, hfilled⟩ | ⟨i, hi, hact, hfilled⟩ | ⟨hact, hended⟩
  · exact .inl ⟨i, hi, ha.trans hact, hfilled.congr hs⟩
  · exact .inr (.inl ⟨i, hi, ha.trans hact, hfilled.congr hs⟩)
  · refine .inr (.inr ⟨ha.trans hact, ?_⟩)
    rwa [HandedToFile, hr, hf]

/-- A step of the encoding brings it on: to the next byte, to the end. -/
theorem encodeStep {i : Nat} (hi : i ≤ 32768) (hfilled : FilledBelow 32768 s u) :
    SaveReached s (encodeStep i (savedText s i) u) := by
  rcases Nat.lt_or_eq_of_le hi with hlt | rfl
  · rw [hfilled.encodeStep hlt]
    exact .inr (.inl ⟨i + 1, hlt, rfl, hfilled.congr ⟨rfl, rfl⟩⟩)
  · rw [encodeStep_last (Nat.le_refl _)]
    exact .inr (.inr ⟨rfl, handedToFile _ u⟩)

/-- A step of the fill brings it on: to the next byte, to the encoding. -/
theorem saveStep {i : Nat} (hi : i ≤ 32768) (hfilled : FilledBelow i s u) (hb : BankKept s u) :
    SaveReached s (saveStep s.store.curBank i u) := by
  rcases Nat.lt_or_eq_of_le hi with hlt | rfl
  · have hfilled' := hfilled.saveStep hb hlt
    rw [saveStep_byte hlt] at hfilled' ⊢
    exact .inl ⟨i + 1, hlt, rfl, hfilled'⟩
  · rw [saveStep_encode (Nat.le_refl _)]
    exact .encodeStep (Nat.zero_le _) hfilled

/-- The step the UI goes on with is a step of the save. -/
theorem uiStep {j : Instr} (h : SaveReached s u) (hb : BankKept s u) (hj : uiNext u = some j)
    (he : exec j u = .next v) :
    Touches [.scratch, .activity, .ret, .fileOut] u v ∧ SaveReached s v := by
  rcases h with ⟨i, hi, hact, hfilled⟩ | ⟨i, hi, hact, hfilled⟩ | ⟨hact, -⟩
  · cases (uiNext_save (text := []) (.inl hact)).symm.trans hj
    cases (exec_save_saving hact).symm.trans he
    exact ⟨touches_saveStep u _ _, .saveStep hi hfilled hb⟩
  · cases (uiNext_save (b := 0) (.inr hact)).symm.trans hj
    cases (exec_save_encoding hact).symm.trans he
    exact ⟨(touches_encodeStep u _ _).mono (by decide), .encodeStep hi hfilled⟩
  · cases (uiNext_between hact).symm.trans hj

end SaveReached

/-- Settles O51: the performances one by one, a byte of the fill each, a byte of the encoding each, and
the last to FILE; with other agents' turns between, where the save stands is carried along the run. -/
theorem saveWritesTheRemappedBank : Obligations.SaveWritesTheRemappedBank := by
  unfold Obligations.SaveWritesTheRemappedBank
  refine ⟨fun s ha => ?alone, fun s t rest n ha hs hrest hn hrun hpos hend => ?run⟩
  case alone =>
    obtain ⟨u, hu, hframe, hfilled⟩ := repeatExec_save ha
    have hfilled' : FilledBelow 32768 s
        (setActivity .between (handToFile (savedText s 32768) u)) :=
      hfilled.congr (touches_handToFile u _ .scratch (by decide))
    exact ⟨_, hu, hfilled'.whole.1, hfilled'.whole.2, frame_handToFile_success hframe,
      fun k => frame_handToFile_storageError hframe⟩
  case run =>
    have hreached : BankKept s t ∧ SaveReached s t := by
      refine noBusActivity_induct (P := fun u => BankKept s u ∧ SaveReached s u)
        hn hrun hpos hs hrest (Laws.RoundTrip.save _ rfl rfl)
        ⟨by decide, by decide, by decide, by decide⟩ ?first ?ui ?other
      case first =>
        intro u hu
        rw [exec_save_between (s := setScript rest s) ha] at hu
        cases hu
        have ht := touches_saveStep (beginHost .save (setScript rest s)) s.store.curBank 0
        have hhist := ht .hist (by decide)
        exact ⟨⟨_, hhist.symm⟩, bankByte_congr (ht .bank (by decide)),
          .saveStep (Nat.zero_le _) (filledBelow_zero ⟨rfl, rfl⟩) fun _ _ => rfl⟩
      case ui =>
        rintro u v j ⟨hb, hu⟩ hj he
        obtain ⟨ht, hv⟩ := hu.uiStep hb hj he
        exact ⟨ht.hist_grows (by decide),
          fun b i => (bankByte_congr (ht .bank (by decide)) b i).trans (hb b i), hv⟩
      case other =>
        rintro u v ⟨hb, hu⟩ ht
        exact ⟨fun b i => (bankByte_congr (ht .bank (by decide)) b i).trans (hb b i),
          hu.congr (ht _ (by decide)) (ht _ (by decide)) (ht _ (by decide)) (ht _ (by decide))⟩
    obtain ⟨hb, ⟨i, -, hact, -⟩ | ⟨i, -, hact, -⟩ | ⟨-, hended⟩⟩ := hreached
    · cases hact.symm.trans hend
    · cases hact.symm.trans hend
    · exact ⟨hb, hended⟩

end Sys2Proof.Machine
end

section
/-! PROOFS. The decode of a load (45_hex_codec.md R151): its stream is read one character a step, until
FILE stops, a character fails, or the copy stands next (60_exceptions.md R175). -/

namespace Sys2Proof.Machine

/-! ### The steps -/

section load
variable {s : State} {x cs : List Byte} {c : Byte} {n : Nat}

theorem exec_load_between (ha : s.host.activity = .between) : exec (.load x) s =
    .next (setActivity (.reading x 0) (beginDecode (beginHost (.load x) s))) := by
  change execLoad x s = _
  unfold execLoad
  rw [ha]

theorem exec_load_reading (ha : s.host.activity = .reading cs n) :
    exec (.load x) s = fetchStep cs n s := by
  change execLoad x s = _
  unfold execLoad
  rw [ha]

theorem storageStops_none (h : s.host.storage = none) : ¬storageStops cs n s = true := by
  unfold storageStops
  rw [h]
  exact Bool.false_ne_true

theorem storageStops_iff {k : Nat} (h : s.host.storage = some k) :
    storageStops cs n s = true ↔ k ≤ n ∨ cs = [] := by
  unfold storageStops
  rw [h, or_comm]
  simp

/-- FILE gives a character of a stream while it has not failed and has not given the most it gives. -/
theorem storageStops_char (h : ∀ k, s.host.storage = some k → n < k) :
    ¬storageStops (c :: cs) n s = true := by
  cases hs : s.host.storage with
  | none => exact storageStops_none hs
  | some k =>
    rw [storageStops_iff hs]
    rintro (hle | hnil)
    · exact Nat.not_le.2 (h k hs) hle
    · cases hnil

section fetch
variable (hr : s.host.dec.status = .running)
include hr

theorem fetchStep_stops (h : storageStops cs n s = true) :
    fetchStep cs n s = .next (setActivity .between (giveBack .storageError s)) :=
  (if_pos (decodeRunning_iff.2 hr)).trans (if_pos h)

theorem fetchStep_char (h : ¬storageStops (c :: cs) n s = true) :
    fetchStep (c :: cs) n s = readChar c (.reading cs (n + 1)) s :=
  (if_pos (decodeRunning_iff.2 hr)).trans (if_neg h)

theorem fetchStep_end (h : ¬storageStops [] n s = true) : fetchStep [] n s =
    unlessSplit s fun s => setActivity (.loading s.store.curBank 0) s :=
  (if_pos (decodeRunning_iff.2 hr)).trans (if_neg h)

end fetch

/-- A load reads its stream as far as FILE gives it. -/
theorem readsStream_load (x : List Byte) {storage : Option Nat} {limit : Nat}
    (h : ∀ k, storage = some k → limit ≤ k) : ReadsStream (.load x) .reading storage limit := by
  intro s c cs n hn hr hs ha
  rw [exec_load_reading ha]
  exact fetchStep_char hr
    (storageStops_char fun k hk => Nat.lt_of_lt_of_le hn (h k (hs.symm.trans hk)))

end load

/-! ### A stream read from its beginning -/

/-- A load as it begins to read its stream (R130, R151). -/
def loadBegun (stream : List Byte) (s : State) : State := beginDecode (beginHost (.load stream) s)

section reads
variable {s t : State} {xs rest pre post : List Byte} {c : Byte}

/-- The characters FILE gives, read with nothing between: the beginning, then one a performance. -/
theorem repeatExec_load_reads (ha : s.host.activity = .between)
    (hread : ReadsTo xs (loadBegun (xs ++ rest) s) t)
    (hlimit : ∀ k, s.host.storage = some k → xs.length ≤ k) :
    repeatExec (.load (xs ++ rest)) (xs.length + 1) s =
      .next (setActivity (.reading rest xs.length) t) := by
  have hsteps := (readsStream_load (xs ++ rest) hlimit).reads (rest := rest) (n := 0) hread rfl rfl
    (Nat.le_of_eq (Nat.zero_add _))
  rw [Nat.zero_add] at hsteps
  exact (repeatExec_succ _ (exec_load_between ha)).trans hsteps

/-- A whole stream read, and its end: the copy into the bank that is current stands next (R151). -/
theorem repeatExec_load_stream {stream : List Byte} (ha : s.host.activity = .between)
    (hs : s.host.storage = none) (hread : ReadsTo stream (loadBegun stream s) t)
    (hwhole : ¬SplitUnit t.host.dec) : repeatExec (.load stream) (stream.length + 2) s =
      .next (setActivity (.loading s.store.curBank 0) t) := by
  have hall : stream ++ [] = stream := List.append_nil stream
  have hsteps := repeatExec_load_reads (xs := stream) (rest := []) ha (by rwa [hall])
    fun k hk => by cases hs.symm.trans hk
  rw [hall] at hsteps
  have hstorage := hread.touches .storage (by decide)
  have hcur := hread.touches .curBank (by decide)
  have hend := (fetchStep_end (s := setActivity (.reading [] stream.length) t)
    (n := stream.length) (hread.running rfl) (storageStops_none (Eq.trans hstorage hs))).trans
      (unlessSplit_whole hwhole)
  exact (repeatExec_snoc hsteps ((exec_load_reading rfl).trans hend)).trans
    (congrArg (fun b => Host.Outcome.next (setActivity (.loading b 0) t)) hcur)

/-- The characters up to the one that fails. -/
theorem repeatExec_load_fails (ha : s.host.activity = .between)
    (hfail : FailsAt pre c (loadBegun (pre ++ c :: post) s) t)
    (hlimit : ∀ k, s.host.storage = some k → pre.length + 1 ≤ k) :
    repeatExec (.load (pre ++ c :: post)) (pre.length + 2) s = .next (setActivity .between t) :=
  (repeatExec_succ _ (exec_load_between ha)).trans
    ((readsStream_load _ hlimit).fails (n := 0) hfail rfl rfl (by omega))

/-- A load of a stream without split units reads the characters FILE gives, or comes to the error one of
them is. -/
theorem load_reads_or_fails (ha : s.host.activity = .between)
    (hw : wholeUnits .normal 0 (xs ++ rest) = true)
    (hlimit : ∀ k, s.host.storage = some k → xs.length ≤ k) :
    (∃ t, ReadsTo xs (loadBegun (xs ++ rest) s) t ∧ ReadyFor t.host.dec rest ∧
      repeatExec (.load (xs ++ rest)) (xs.length + 1) s =
        .next (setActivity (.reading rest xs.length) t)) ∨
    ∃ pre post c t, xs ++ rest = pre ++ c :: post ∧ FailsAt pre c (loadBegun (xs ++ rest) s) t ∧
      repeatExec (.load (xs ++ rest)) (pre.length + 2) s = .next (setActivity .between t) := by
  rcases ReadyFor.reads (s := loadBegun (xs ++ rest) s) (readyFor_initial hw) with
    ⟨t, hread, hready⟩ | ⟨pre, c, post, t, rfl, hfail⟩
  · exact .inl ⟨t, hread, hready, repeatExec_load_reads ha hread hlimit⟩
  · have hsplit : (pre ++ c :: post) ++ rest = pre ++ c :: (post ++ rest) :=
      List.append_assoc pre (c :: post) rest
    rw [hsplit] at hfail ⊢
    have hgiven (k : Nat) (hk : s.host.storage = some k) : pre.length + 1 ≤ k := by
      have hle := hlimit k hk
      rw [List.length_append, List.length_cons] at hle
      omega
    exact .inr ⟨pre, _, c, t, rfl, hfail, repeatExec_load_fails ha hfail hgiven⟩

end reads

/-! ### What the decode of a load leaves alone (log 36) -/

/-- The bank bytes and the names, which a decode does not write. -/
def StoreKept (s t : State) : Prop := BankKept s t ∧ t.store.name = s.store.name

theorem Touches.storeKept {s t : State} {cs : List Component} (h : Touches cs s t)
    (hb : Component.bank ∉ cs) (hn : Component.name ∉ cs) : StoreKept s t :=
  ⟨bankByte_congr (h .bank hb), h .name hn⟩

theorem storeKept_fetchStep {s t : State} {cs : List Byte} {n : Nat}
    (h : fetchStep cs n s = .next t) : StoreKept s t :=
  (touches_fetchStep s cs n t h).storeKept (by decide) (by decide)

/-! ### The first step to the copy, or to an error -/

/-- Where a load of a stream without split units has come after `n` performances: to its copy, to FILE's
error, or to the error of a character. -/
def LoadDecoded (s : State) (stream : List Byte) (n : Nat) (t : State) : Prop :=
  StoreKept s t ∧
    ((s.host.storage = none ∧ n = stream.length + 2 ∧ t.host.dec.status = .running ∧
        t.host.activity = .loading s.store.curBank 0) ∨
      (s.host.storage ≠ none ∧ t.host.activity = .between ∧ t.host.ret = .storageError) ∨
      ∃ (pre post : List Byte) (c : Byte), stream = pre ++ c :: post ∧ n = pre.length + 2 ∧
        t.host.activity = .between ∧ t.host.ret = .decodeError (pre.count 0x0A + 1))

section decoded
variable {s t : State} {stream : List Byte}

theorem loadDecoded_failed {pre post : List Byte} {c : Byte} (hstream : stream = pre ++ c :: post)
    (hfail : FailsAt pre c (loadBegun stream s) t) :
    LoadDecoded s stream (pre.length + 2) (setActivity .between t) := by
  have hkept : StoreKept s t := hfail.touches.storeKept (by decide) (by decide)
  obtain ⟨-, hret, -⟩ := hfail.reports rfl
  rw [show (loadBegun stream s).host.dec.line = 1 from rfl, Nat.add_comm] at hret
  exact ⟨hkept, .inr (.inr ⟨pre, post, c, hstream, rfl, rfl, hret⟩)⟩

/-- FILE gives the whole stream. -/
theorem load_decodes_stream (ha : s.host.activity = .between)
    (hw : wholeUnits .normal 0 stream = true) (hs : s.host.storage = none) :
    ∃ n t, repeatExec (.load stream) n s = .next t ∧ LoadDecoded s stream n t := by
  have hall : stream ++ [] = stream := List.append_nil stream
  rw [← hall] at hw
  have hcases := load_reads_or_fails ha hw (fun k hk => by cases hs.symm.trans hk)
  rw [hall] at hcases
  rcases hcases with ⟨t, hread, hready, -⟩ | ⟨pre, post, c, t, hstream, hfail, hrun⟩
  · have ht := hread.touches
    exact ⟨_, _, repeatExec_load_stream ha hs hread hready.not_splitUnit_end,
      ht.storeKept (by decide) (by decide), .inl ⟨hs, rfl, hread.running rfl, rfl⟩⟩
  · exact ⟨_, _, hrun, loadDecoded_failed hstream hfail⟩

/-- FILE fails at character `k` or at the end of the stream, if no character has failed before. -/
theorem load_decodes_part {k : Nat} (ha : s.host.activity = .between)
    (hw : wholeUnits .normal 0 stream = true) (hs : s.host.storage = some k) :
    ∃ n t, repeatExec (.load stream) n s = .next t ∧ LoadDecoded s stream n t := by
  have hall : stream.take k ++ stream.drop k = stream := List.take_append_drop k stream
  rw [← hall] at hw
  have hcases := load_reads_or_fails ha hw fun k' hk' => by
    cases hs.symm.trans hk'
    exact List.length_take_le k stream
  rw [hall] at hcases
  rcases hcases with ⟨t, hread, -, hrun⟩ | ⟨pre, post, c, t, hstream, hfail, hrun⟩
  · have ht := hread.touches
    have hstorage : t.host.storage = some k := Eq.trans (ht .storage (by decide)) hs
    have hstops : k ≤ (stream.take k).length ∨ stream.drop k = [] := by
      rw [List.length_take, List.drop_eq_nil_iff]
      omega
    have hlast := (exec_load_reading (x := stream)
      (s := setActivity (.reading (stream.drop k) (stream.take k).length) t) rfl).trans
        (fetchStep_stops (hread.running rfl)
          ((storageStops_iff (s := setActivity (.reading (stream.drop k) (stream.take k).length) t)
            hstorage).2 hstops))
    exact ⟨_, _, repeatExec_snoc hrun hlast, ht.storeKept (by decide) (by decide),
      .inr (.inl ⟨by rw [hs]; exact Option.some_ne_none k, rfl, rfl⟩)⟩
  · exact ⟨_, _, hrun, loadDecoded_failed hstream hfail⟩

end decoded

/-- Settles O52: each step by the case of `fetchStep` it is; a stream without split units by what its
reading comes to, as far as FILE gives it. -/
theorem loadDecodesBeforeItCopies : Obligations.LoadDecodesBeforeItCopies := by
  unfold Obligations.LoadDecodesBeforeItCopies
  refine ⟨fun s stream ha => exec_load_between ha,
    fun s x cs n hr ha => ⟨fun k hk hstops => ?stops, fun hgives c post hcs => ?char,
      fun hs hcs => ?atEnd, fun t ht => ?kept⟩, fun s stream ha hw => ?whole⟩
  case stops =>
    rw [exec_load_reading ha]
    exact fetchStep_stops hr ((storageStops_iff hk).2 hstops)
  case char =>
    subst hcs
    rw [exec_load_reading ha, fetchStep_char hr (storageStops_char hgives)]
    obtain ⟨hnext, hrefused, -⟩ := readChar_performs_row hr c (.reading post (n + 1))
    exact ⟨hnext, fun r h => (hrefused r h).2⟩
  case atEnd =>
    subst hcs
    rw [exec_load_reading ha, fetchStep_end hr (storageStops_none hs)]
    exact ⟨unlessSplit_refused, unlessSplit_whole⟩
  case kept => exact storeKept_fetchStep ((exec_load_reading ha).symm.trans ht)
  case whole =>
    have hdecoded : ∃ n t, repeatExec (.load stream) n s = .next t ∧ LoadDecoded s stream n t := by
      cases hs : s.host.storage with
      | none => exact load_decodes_stream ha hw hs
      | some k => exact load_decodes_part ha hw hs
    obtain ⟨n, t, hrun, ⟨hb, hname⟩, hcome⟩ := hdecoded
    exact ⟨n, t, hrun, hb, hname, hcome⟩

end Sys2Proof.Machine
end

section
/-! PROOFS. The copy of a load (45_hex_codec.md R151): written offsets get their byte with no permutation,
the others an arbitrary one; and a bank saved and loaded back (R152). -/

namespace Sys2Proof.Machine

/-! ### The first `i` bytes of a copy -/

/-- The offsets below `n` that the stream did not mention: each takes a free value (log 5). -/
def missingBelow (s : State) (n : Nat) : Nat :=
  ((List.range n).filter fun j => j ∉ s.host.dec.written).length

theorem missingBelow_succ (s : State) (n : Nat) :
    missingBelow s (n + 1) = missingBelow s n + if n ∈ s.host.dec.written then 0 else 1 := by
  unfold missingBelow
  rw [List.range_succ, List.filter_append, List.length_append, List.filter_singleton]
  by_cases h : n ∈ s.host.dec.written <;> simp [h]

/-- The byte that a copy begun in `s` gives offset `i` (D18). -/
def copySource (s : State) (i : Nat) : Byte :=
  if i ∈ s.host.dec.written then scratchByte s i
  else Config.draw8 (s.book.draws + missingBelow s i)

/-- In `u` the bytes of bank `b` below `i` are those of the copy; every other is as in `s`. -/
def CopiedBelow (b : BankNumber) (i : Nat) (s u : State) : Prop :=
  ∀ b' j, bankByte u b' j = if b' = b ∧ j.toNat < i then copySource s j.toNat else bankByte s b' j

/-- An index below the bank's size stands for itself. -/
theorem toNat_bankIndex {i : Nat} (hi : i < 32768) : (BitVec.ofNat 15 i).toNat = i := by
  rw [BitVec.toNat_ofNat]
  omega

/-- Any other index has another number. -/
theorem toNat_ne_of_ne_bankIndex {i : Nat} {j : BankIndex} (hi : i < 32768)
    (hj : j ≠ BitVec.ofNat 15 i) : j.toNat ≠ i :=
  fun e => hj (BitVec.eq_of_toNat_eq (e.trans (toNat_bankIndex hi).symm))

section copied
variable {s u v : State} {b : BankNumber} {i : Nat}

theorem copiedBelow_zero (b : BankNumber) (s : State) : CopiedBelow b 0 s s := fun b' j => by
  rw [if_neg fun h => Nat.not_lt_zero _ h.2]

/-- One byte more, and no other. -/
theorem CopiedBelow.succ (h : CopiedBelow b i s u) (hi : i < 32768)
    (hbyte : bankByte v b (BitVec.ofNat 15 i) = copySource s i)
    (hkept : BankKeptBut b (BitVec.ofNat 15 i) u v) : CopiedBelow b (i + 1) s v := by
  intro b' j
  by_cases hj : b' = b ∧ j = BitVec.ofNat 15 i
  · obtain ⟨rfl, rfl⟩ := hj
    rw [hbyte, toNat_bankIndex hi, if_pos ⟨rfl, Nat.lt_succ_self i⟩]
  · have hlt : b' = b ∧ j.toNat < i ↔ b' = b ∧ j.toNat < i + 1 := by
      refine and_congr_right fun hb => ?_
      have hne := toNat_ne_of_ne_bankIndex (j := j) hi fun e => hj ⟨hb, e⟩
      omega
    rw [hkept b' j hj, h b' j, if_congr hlt rfl rfl]

/-- Copied to its end, the bank holds the stream's bytes and free values, and the others are kept. -/
theorem CopiedBelow.whole (h : CopiedBelow b 32768 s u) :
    (∀ j, bankByte u b j = copySource s j.toNat) ∧
      ∀ b' j, b' ≠ b → bankByte u b' j = bankByte s b' j :=
  ⟨fun j => (h b j).trans (if_pos ⟨rfl, j.isLt⟩), fun b' j hb => (h b' j).trans (if_neg (hb ·.1))⟩

theorem copySource_written (h : i ∈ s.host.dec.written) : copySource s i = scratchByte s i :=
  if_pos h

theorem copySource_missing (h : i ∉ s.host.dec.written) :
    copySource s i = Config.draw8 (s.book.draws + missingBelow s i) := if_neg h

end copied

/-! ### A copy with nothing between its steps -/

section copy
variable {s : State} {b : BankNumber} {text : List Byte}

/-- In `u` a copy of a load into `b` that began in `s` stands before byte `i`. -/
def CopyReached (b : BankNumber) (i : Nat) (s u : State) : Prop :=
  { u with store.bank := s.store.bank } = { s with
    host.activity := .loading b i, book.draws := s.book.draws + missingBelow s i } ∧
  CopiedBelow b i s u

theorem CopyReached.loadStep {u : State} {i : Nat} (h : CopyReached b i s u) (hi : i < 32768) :
    CopyReached b (i + 1) s (loadStep b i u) := by
  obtain ⟨hframe, hcopied⟩ := h
  obtain ⟨n, hstep, hwritten, hmissing, hkept⟩ := loadStep_copies_byte (s := u) (b := b) hi
  have hdec : u.host.dec = s.host.dec := congrArg (·.host.dec) hframe
  have hdraws : u.book.draws = s.book.draws + missingBelow s i := congrArg (·.book.draws) hframe
  have hscratch : scratchByte u i = scratchByte s i :=
    scratchByte_congr (congrArg (·.store.scratch) hframe) (congrArg (·.store.scratchFill) hframe) i
  rw [hdec] at hwritten hmissing
  rw [hscratch] at hwritten
  rw [hdraws] at hmissing
  have hbyte : n = (if i ∈ s.host.dec.written then 0 else 1) ∧
      bankByte (Machine.loadStep b i u) b (BitVec.ofNat 15 i) = copySource s i := by
    by_cases hw : i ∈ s.host.dec.written
    · rw [if_pos hw, copySource_written hw]
      exact hwritten hw
    · rw [if_neg hw, copySource_missing hw]
      exact hmissing hw
  refine ⟨?_, hcopied.succ hi hbyte.2 hkept⟩
  rw [missingBelow_succ, ← hbyte.1, ← Nat.add_assoc]
  exact (congrArg (fun w : State => { w with store.bank := s.store.bank }) hstep).trans
    (congrArg (fun w : State => { w with
      host.activity := .loading b (i + 1), book.draws := w.book.draws + n }) hframe)

/-- The first `k` performances. -/
theorem repeatExec_load_bytes (ha : s.host.activity = .loading b 0) (k : Nat) (hk : k ≤ 32768) :
    ∃ u, repeatExec (.load text) k s = .next u ∧ CopyReached b k s u := by
  induction k with
  | zero =>
    refine ⟨s, rfl, ?_, copiedBelow_zero b s⟩
    rw [← ha]
    rfl
  | succ k ih =>
    obtain ⟨u, hu, hreached⟩ := ih (by omega)
    have hact : u.host.activity = .loading b k := congrArg (·.host.activity) hreached.1
    exact ⟨_, repeatExec_snoc hu (exec_load_loading hact), hreached.loadStep hk⟩

/-- With no byte left, the step makes the name unspecified (log 4). -/
theorem CopyReached.loadStep_name {u : State} {i : Nat} (h : CopyReached b i s u) (hi : 32768 ≤ i) :
    CopiedBelow b i s (Machine.loadStep b i u) ∧
      { Machine.loadStep b i u with store.bank := s.store.bank } = { s with
        store.name := s.store.name.set b.toNat
          (Config.loadedName (s.book.draws + missingBelow s i)) b.isLt
        host.activity := .between, host.ret := .success
        book.draws := s.book.draws + missingBelow s i + 1 } := by
  obtain ⟨hframe, hcopied⟩ := h
  rw [Machine.loadStep_name hi]
  exact ⟨hcopied, congrArg (fun w : State => setActivity .between (giveBack .success
    (setName b (Config.loadedName w.book.draws) { w with book.draws := w.book.draws + 1 }))) hframe⟩

/-- The whole copy: its bytes, and last its name. -/
theorem repeatExec_load_copy (ha : s.host.activity = .loading b 0) :
    ∃ t, repeatExec (.load text) 32769 s = .next t ∧ CopiedBelow b 32768 s t ∧
      { t with store.bank := s.store.bank } = { s with
        store.name := s.store.name.set b.toNat
          (Config.loadedName (s.book.draws + missingBelow s 32768)) b.isLt
        host.activity := .between, host.ret := .success
        book.draws := s.book.draws + missingBelow s 32768 + 1 } := by
  obtain ⟨u, hu, hreached⟩ := repeatExec_load_bytes (text := text) ha 32768 (Nat.le_refl _)
  have hact : u.host.activity = .loading b 32768 := congrArg (·.host.activity) hreached.1
  exact ⟨_, repeatExec_snoc hu (exec_load_loading hact), hreached.loadStep_name (Nat.le_refl _)⟩

end copy

/-! ### A load with other agents' steps between its own -/

/-- Every bank byte outside bank `b` reads as before. -/
def OtherBanksKept (b : BankNumber) (s u : State) : Prop :=
  ∀ b' j, b' ≠ b → bankByte u b' j = bankByte s b' j

/-- The bytes of bank `b` below `i` that the stream stored are in the bank. -/
def StoredBelow (b : BankNumber) (i : Nat) (u : State) : Prop :=
  ∀ j : BankIndex, j.toNat < i → j.toNat ∈ u.host.dec.written → bankByte u b j = scratchByte u j.toNat

/-- The copy of one byte more leaves other banks alone and puts the byte into the bank. -/
theorem loadStep_storedBelow {s u : State} {b : BankNumber} {i : Nat} (hi : i < 32768)
    (hothers : OtherBanksKept b s u) (hstored : StoredBelow b i u) :
    OtherBanksKept b s (loadStep b i u) ∧ StoredBelow b (i + 1) (loadStep b i u) := by
  obtain ⟨n, -, hwritten, -, hkept⟩ := loadStep_copies_byte (s := u) (b := b) hi
  have ht := touches_loadStep u b i
  have hdec : (loadStep b i u).host.dec = u.host.dec := ht .dec (by decide)
  obtain ⟨hbytes, hfill⟩ := ht .scratch (by decide)
  refine ⟨fun b' j hb => (hkept b' j (hb ·.1)).trans (hothers b' j hb), fun j hj hw => ?_⟩
  rw [hdec] at hw
  rw [scratchByte_congr hbytes hfill]
  by_cases he : j = BitVec.ofNat 15 i
  · subst he
    rw [toNat_bankIndex hi] at hw ⊢
    exact (hwritten hw).2
  · have hne := toNat_ne_of_ne_bankIndex hi he
    exact (hkept b j (he ·.2)).trans (hstored j (by omega) hw)

/-- Where a load that was begun in `s` stands: in its decode, before byte `i` of its copy or its name, or
at its end, with the copy done or no bank byte changed. -/
def LoadReached (s u : State) : Prop :=
  ((∃ cs n, u.host.activity = .reading cs n) ∧ u.host.dec.status = .running ∧
      u.store.curBank = s.store.curBank ∧ BankKept s u) ∨
    (∃ i, i ≤ 32768 ∧ u.host.activity = .loading s.store.curBank i ∧
      OtherBanksKept s.store.curBank s u ∧ StoredBelow s.store.curBank i u) ∨
    (u.host.activity = .between ∧ u.host.ret = .success ∧
      OtherBanksKept s.store.curBank s u ∧ StoredBelow s.store.curBank 32768 u) ∨
    (u.host.activity = .between ∧ u.host.ret ≠ .success ∧ BankKept s u)

/-- While a load is under way the UI goes on with it. -/
theorem uiNext_load {u : State} {b : BankNumber} {cs : List Byte} {n : Nat}
    (h : u.host.activity = .reading cs n ∨ u.host.activity = .loading b n) :
    uiNext u = some (.load []) := by
  unfold uiNext
  rcases h with h | h <;> rw [h]

/-- A character records its error at most. -/
theorem CharStep.hist_grows {stores : Prop} {u v : State} (h : CharStep stores u v) :
    u.book.hist <+: v.book.hist := by
  rcases h with ⟨d, -, -, rfl⟩ | ⟨-, b, d, -, -, rfl⟩ | ⟨d, -, rfl⟩
  · exact List.prefix_rfl
  · exact List.prefix_rfl
  · exact ⟨_, rfl⟩

/-- The footprint of a load is the same for every stream. -/
theorem leavesBusAlone_load (stream : List Byte) : LeavesBusAlone (.load stream) :=
  show LeavesBusAlone (.load []) from ⟨by decide, by decide, by decide, by decide⟩

/-- Where a step of the decode leads: to an end that is no success, to the copy, or to the next
character. -/
theorem fetchStep_leads {u v : State} {cs : List Byte} {n : Nat}
    (hr : u.host.dec.status = .running) (h : fetchStep cs n u = .next v) :
    u.book.hist <+: v.book.hist ∧
    ((v.host.activity = .between ∧ v.host.ret ≠ .success) ∨
      v.host.activity = .loading u.store.curBank 0 ∨
      (v.host.activity = .reading cs.tail (n + 1) ∧ v.host.dec.status = .running)) := by
  by_cases hstops : storageStops cs n u = true
  · cases (fetchStep_stops hr hstops).symm.trans h
    exact ⟨List.prefix_rfl, .inl ⟨rfl, fun hret => RetVal.noConfusion hret⟩⟩
  cases cs with
  | nil =>
    rw [fetchStep_end hr hstops] at h
    rcases unlessSplit_cases u fun s => setActivity (.loading s.store.curBank 0) s with
      ⟨-, e⟩ | ⟨-, e⟩
    · cases e.symm.trans h
      exact ⟨List.prefix_rfl, .inr (.inl rfl)⟩
    · cases e.symm.trans h
  | cons c cs =>
    rw [fetchStep_char hr hstops] at h
    obtain ⟨w, hact, rfl⟩ := readChar_next h
    have hchar := charStep_charAct hr c w hact
    refine ⟨hchar.hist_grows, ?_⟩
    by_cases hw : w.host.dec.status = .running
    · rw [if_pos (decodeRunning_iff.2 hw)]
      exact .inr (.inr ⟨rfl, hw⟩)
    · obtain ⟨-, hret, -⟩ := hchar.ended hw
      rw [if_neg fun hrun => hw (decodeRunning_iff.1 hrun)]
      refine .inl ⟨rfl, fun hsuccess => ?_⟩
      cases hret.symm.trans hsuccess

namespace LoadReached
variable {s u v : State}

theorem congr (h : LoadReached s u) (ht : Touches otherCells u v) : LoadReached s v := by
  have hact : v.host.activity = u.host.activity := ht .activity (by decide)
  have hdec : v.host.dec = u.host.dec := ht .dec (by decide)
  have hret : v.host.ret = u.host.ret := ht .ret (by decide)
  have hcur : v.store.curBank = u.store.curBank := ht .curBank (by decide)
  have hbank := bankByte_congr (ht .bank (by decide))
  obtain ⟨hbytes, hfill⟩ := ht .scratch (by decide)
  have kept (hb : BankKept s u) : BankKept s v := fun b j => (hbank b j).trans (hb b j)
  have others {b} (hb : OtherBanksKept b s u) : OtherBanksKept b s v :=
    fun b' j hne => (hbank b' j).trans (hb b' j hne)
  have stored {b i} (hb : StoredBelow b i u) : StoredBelow b i v := fun j hj hw => by
    rw [hbank, scratchByte_congr hbytes hfill]
    exact hb j hj (hdec ▸ hw)
  unfold LoadReached
  rw [hact, hret, hcur, hdec]
  rcases h with ⟨ha, hr, hc, hb⟩ | ⟨i, hi, ha, ho, hb⟩ | ⟨ha, hr, ho, hb⟩ | ⟨ha, hr, hb⟩
  · exact .inl ⟨ha, hr, hc, kept hb⟩
  · exact .inr (.inl ⟨i, hi, ha, others ho, stored hb⟩)
  · exact .inr (.inr (.inl ⟨ha, hr, others ho, stored hb⟩))
  · exact .inr (.inr (.inr ⟨ha, hr, kept hb⟩))

/-- A step of the decode brings it on: to the next character, to the copy, to an end with the bank as it
was. -/
theorem fetchStep {cs : List Byte} {n : Nat} (hr : u.host.dec.status = .running)
    (hcur : u.store.curBank = s.store.curBank) (hb : BankKept s u)
    (h : fetchStep cs n u = .next v) : u.book.hist <+: v.book.hist ∧ LoadReached s v := by
  have hcur' : v.store.curBank = s.store.curBank :=
    Eq.trans (touches_fetchStep u cs n v h .curBank (by decide)) hcur
  have hb' : BankKept s v := fun b j => ((storeKept_fetchStep h).1 b j).trans (hb b j)
  obtain ⟨hhist, hleads⟩ := fetchStep_leads hr h
  refine ⟨hhist, ?_⟩
  rcases hleads with ⟨hact, hret⟩ | hact | ⟨hact, hr'⟩
  · exact .inr (.inr (.inr ⟨hact, hret, hb'⟩))
  · rw [hcur] at hact
    exact .inr (.inl ⟨0, Nat.zero_le _, hact, fun b j _ => hb' b j,
      fun j hj => absurd hj (Nat.not_lt_zero _)⟩)
  · exact .inl ⟨⟨_, _, hact⟩, hr', hcur', hb'⟩

/-- A step of the copy brings it on: to the next byte, to the end. -/
theorem loadStep {i : Nat} (hi : i ≤ 32768) (hothers : OtherBanksKept s.store.curBank s u)
    (hstored : StoredBelow s.store.curBank i u) :
    LoadReached s (loadStep s.store.curBank i u) := by
  rcases Nat.lt_or_eq_of_le hi with hlt | rfl
  · obtain ⟨hothers', hstored'⟩ := loadStep_storedBelow hlt hothers hstored
    obtain ⟨k, hframe, -⟩ := loadStep_copies_byte (s := u) (b := s.store.curBank) hlt
    exact .inr (.inl ⟨i + 1, hlt, congrArg (·.host.activity) hframe, hothers', hstored'⟩)
  · rw [loadStep_name (Nat.le_refl _)]
    exact .inr (.inr (.inl ⟨rfl, rfl, hothers, hstored⟩))

/-- The step the UI goes on with is a step of the load. -/
theorem uiStep {j : Instr} (h : LoadReached s u) (hj : uiNext u = some j)
    (he : exec j u = .next v) : u.book.hist <+: v.book.hist ∧ LoadReached s v := by
  rcases h with ⟨⟨cs, n, hact⟩, hr, hcur, hb⟩ | ⟨i, hi, hact, hothers, hstored⟩ | ⟨hact, -⟩ |
    ⟨hact, -⟩
  · cases (uiNext_load (b := 0) (.inl hact)).symm.trans hj
    exact fetchStep hr hcur hb ((exec_load_reading hact).symm.trans he)
  · cases (uiNext_load (cs := []) (.inr hact)).symm.trans hj
    cases (exec_load_loading hact).symm.trans he
    exact ⟨(touches_loadStep u _ i).hist_grows (by decide), .loadStep hi hothers hstored⟩
  all_goals cases (uiNext_between hact).symm.trans hj

end LoadReached

/-- Settles O53: the performances one by one, each copying its byte, and the last the name; with other
agents' turns between, where the load stands is carried along the run. -/
theorem loadCopiesTheDecodedBytes : Obligations.LoadCopiesTheDecodedBytes := by
  unfold Obligations.LoadCopiesTheDecodedBytes
  refine ⟨?alone, fun s t stream rest n ha hs hrest hn hrun hpos hend => ?run⟩
  case alone =>
    intro s b text ha missing
    have hmissing : missing = missingBelow s := rfl
    rw [hmissing]
    obtain ⟨t, ht, hcopied, hframe⟩ := repeatExec_load_copy (text := text) ha
    obtain ⟨hbytes, hothers⟩ := hcopied.whole
    exact ⟨t, ht, fun i hw => (hbytes i).trans (copySource_written hw),
      fun i hw => (hbytes i).trans (copySource_missing hw), hothers, hframe⟩
  case run =>
    have hreached : LoadReached s t := by
      refine noBusActivity_induct (P := LoadReached s) hn hrun hpos hs hrest
        (Laws.RoundTrip.load stream _ rfl rfl) (leavesBusAlone_load stream)
        ?first (fun u v j hu => hu.uiStep) fun u v hu ht => hu.congr ht
      case first =>
        intro u hu
        rw [exec_load_between (s := setScript rest s) ha] at hu
        cases hu
        exact ⟨⟨_, rfl⟩, .inl ⟨⟨_, _, rfl⟩, rfl, rfl, fun _ _ => rfl⟩⟩
    rcases hreached with ⟨⟨cs, m, hact⟩, -⟩ | ⟨i, -, hact, -⟩ | ⟨-, hret, hothers, hstored⟩ |
      ⟨-, hret, hb⟩
    · cases hact.symm.trans hend
    · cases hact.symm.trans hend
    · exact ⟨hothers, fun _ i hw => hstored i i.isLt hw, fun hne => absurd hret hne⟩
    · exact ⟨fun b i _ => hb b i, fun hsuccess => absurd hsuccess hret, fun _ => hb⟩

/-! ### A bank saved and loaded back (R152) -/

/-- The bytes of a whole save. -/
def savedBytes (s : State) : List Byte := (List.range 32768).map (saveSource s)

theorem length_savedBytes (s : State) : (savedBytes s).length = 32768 := by
  unfold savedBytes
  rw [List.length_map, List.length_range]

theorem savedBytes_getElem? {s : State} {j : Nat} (hj : j < 32768) :
    (savedBytes s)[j]? = some (saveSource s j) := by
  unfold savedBytes
  rw [List.getElem?_map, List.getElem?_range hj, Option.map_some]

theorem savedText_eq (s : State) : savedText s 32768 = encodeText (savedBytes s) := rfl

/-- A load of the text of a buffer, up to its copy: the buffer stands in the scratch bytes. -/
theorem repeatExec_load_encodeText {u : State} {buf : List Byte} (ha : u.host.activity = .between)
    (hs : u.host.storage = none) (hlen : buf.length = 32768) :
    ∃ t, repeatExec (.load (encodeText buf)) 98305 u =
        .next (setActivity (.loading u.store.curBank 0) t) ∧
      BankKept u t ∧ (∀ j, j < 32768 → j ∈ t.host.dec.written) ∧
      ∀ j v, buf[j]? = some v → scratchByte t j = v := by
  obtain ⟨t, hread, hat, hwritten, hbytes⟩ :=
    readsTo_encodeText (s := loadBegun (encodeText buf) u) rfl hlen
  have hload := repeatExec_load_stream ha hs hread hat.not_splitUnit
  rw [length_encodeText_whole hlen] at hload
  exact ⟨t, hload, bankByte_congr (hread.touches .bank (by decide)), fun j => (hwritten j).2, hbytes⟩

/-- Settles O54: the save writes the text of the bank through the permutation, whose load puts each byte
where it stands in the text. -/
theorem saveThenLoadPermutesTheBank : Obligations.SaveThenLoadPermutesTheBank := by
  unfold Obligations.SaveThenLoadPermutesTheBank
  intro s ha hs
  obtain ⟨w, hsave, hframe, -⟩ := repeatExec_save ha
  have hlen := length_savedBytes s
  have hbuf (i : BankIndex) : (savedBytes s)[i.toNat]? =
      some (bankByte s s.store.curBank (remapAddr i)) := by
    rw [savedBytes_getElem? i.isLt]
    unfold saveSource
    rw [BitVec.ofNat_toNat, BitVec.setWidth_eq]
  rw [savedText_eq] at hsave
  generalize savedBytes s = buf at hsave hlen hbuf
  have hu := frame_handToFile_success (text := encodeText buf) hframe hs
  generalize setActivity .between (handToFile (encodeText buf) w) = u at hsave hu
  have hact : u.host.activity = .between := Eq.trans (congrArg (·.host.activity) hu) ha
  have hstorage : u.host.storage = none := Eq.trans (congrArg (·.host.storage) hu) hs
  have hcur : u.store.curBank = s.store.curBank := congrArg (·.store.curBank) hu
  have hfile : u.host.fileOut = encodeText buf := congrArg (·.host.fileOut) hu
  have hsaved : BankKept s u := bankByte_congr (congrArg (·.store.bank) hu)
  obtain ⟨v, hload, hkept, hwritten, hbytes⟩ := repeatExec_load_encodeText hact hstorage hlen
  rw [hcur] at hload
  obtain ⟨t, hcopy, hcopied, ht⟩ := repeatExec_load_copy (text := encodeText buf)
    (s := setActivity (.loading s.store.curBank 0) v) (b := s.store.curBank) rfl
  obtain ⟨hcopied, hothers⟩ := hcopied.whole
  refine ⟨u, t, hsave, ?_, congrArg (·.host.activity) ht, congrArg (·.host.ret) ht, fun i => ?_,
    fun b i hb => (hothers b i hb).trans ((hkept b i).trans (hsaved b i))⟩
  · rw [hfile]
    exact (repeatExec_add 98305 32769 hload).trans hcopy
  · rw [hcopied, copySource_written (by exact hwritten _ i.isLt)]
    exact hbytes _ _ (hbuf i)

end Sys2Proof.Machine
end

section
/-! PROOFS. The pause protocol (46_pause_protocol.md): the interrupt mechanism and the handlers
neither read nor write the pause flags (R159, R185), so they commute with a change of them; and the
whole effect of each operation of the handshake (R153 to R158). -/

namespace Sys2Proof.Machine

/-! ### The same state with other pause flags -/

/-- The state with other pause flags (R34, R35). -/
def withPause (p : PauseFlags) (s : State) : State := { s with pause := p }

section shared
variable (p : PauseFlags) (s : State)

@[simp] theorem withPause_env : (withPause p s).env = s.env := rfl
@[simp] theorem withPause_arb : (withPause p s).arb = s.arb := rfl
@[simp] theorem withPause_regs : (withPause p s).regs = s.regs := rfl
@[simp] theorem withPause_sequencer : (withPause p s).sequencer = s.sequencer := rfl
@[simp] theorem withPause_edge : (withPause p s).edge = s.edge := rfl
@[simp] theorem withPause_book : (withPause p s).book = s.book := rfl

/-! ### The shared operations do not look at the pause flags -/

@[simp] theorem draw8_withPause :
    draw8 (withPause p s) = ((draw8 s).1, withPause p (draw8 s).2) := rfl
@[simp] theorem goto_withPause (q : Sequencer) :
    goto q (withPause p s) = withPause p (goto q s) := rfl
@[simp] theorem settleWait_withPause (k : SettlePoint) :
    settleWait k (withPause p s) = withPause p (settleWait k s) := rfl
@[simp] theorem releaseLines_withPause :
    releaseLines (withPause p s) = withPause p (releaseLines s) := rfl

variable {p} in
/-- A test that does not look at the pause flags, with two outcomes that do not. The two
decision terms differ: each speaks of its own state. -/
theorem ite_withPause {c : Prop} {d d' : Decidable c} {a b a' b' : State}
    (ha : a' = withPause p a) (hb : b' = withPause p b) :
    @ite _ c d' a' b' = withPause p (@ite _ c d a b) := by
  by_cases hc : c <;> simp [hc, ha, hb]

theorem noteContention_withPause {t t' : State} (ht : t' = withPause p t) :
    noteContention (withPause p s) t' = withPause p (noteContention s t) := by
  subst ht
  exact ite_withPause rfl rfl

@[simp] theorem selectPhase_withPause (m : MuxState) :
    selectPhase m (withPause p s) = withPause p (selectPhase m s) := noteContention_withPause p s rfl

@[simp] theorem driveData_withPause (v : Byte) :
    driveData v (withPause p s) = withPause p (driveData v s) := noteContention_withPause p s rfl

@[simp] theorem neutral_withPause : neutral (withPause p s) = withPause p (neutral s) :=
  ite_withPause rfl rfl

theorem sharedIn_withPause :
    sharedIn (withPause p s) = ((sharedIn s).1, withPause p (sharedIn s).2) := by
  simp only [sharedIn, withPause_arb, withPause_env]
  split
  case h_8 => by_cases hd : s.env.dcpuDrv <;> simp [hd]
  all_goals rfl

theorem sampled_withPause :
    sampled (withPause p s) = ((sampled s).1, withPause p (sampled s).2) := by
  unfold sampled
  cases hs : s.arb.settled with
  | true => simp only [withPause_arb, hs, if_true, sharedIn_withPause]
  | false => simp only [withPause_arb, hs, Bool.false_eq_true, if_false, draw8_withPause]

@[simp] theorem sample_withPause (r : SampReg) :
    sample r (withPause p s) = withPause p (sample r s) := by
  simp only [sample, sampled_withPause]
  cases r <;> rfl

@[simp] theorem enterHandler_withPause (h : Source) :
    enterHandler h (withPause p s) = withPause p (enterHandler h s) := by
  cases h <;> rfl

@[simp] theorem leaveHandler_withPause :
    leaveHandler (withPause p s) = withPause p (leaveHandler s) := by
  simp only [leaveHandler, withPause_sequencer]
  split <;> rfl

@[simp] theorem observeIorq_withPause :
    observeIorq (withPause p s) = withPause p (observeIorq s) := ite_withPause rfl rfl

@[simp] theorem observeMreq_withPause :
    observeMreq (withPause p s) = withPause p (observeMreq s) := ite_withPause rfl rfl

/-! ### Dispatch, the handlers' steps and their whole runs -/

/-- Entry is gated by the latches and the sequencer alone (R159, R166). -/
theorem dispatch_withPause : dispatch (withPause p s) = withPause p (dispatch s) := by
  simp only [dispatch, withPause_sequencer, withPause_edge, withPause_book]
  split
  · rfl
  · rfl
  · split
    · rfl
    · exact enterHandler_withPause p s .io
    · exact enterHandler_withPause p s .mem
    · rw [← enterHandler_withPause]; rfl

theorem ioLabel_withPause (l : IoLabel) :
    ioLabel l (withPause p s) = withPause p (ioLabel l s) := by
  cases l with
  | io3 => exact ite_withPause rfl rfl
  | io3bc =>
    simp only [ioLabel, ← goto_withPause]
    exact congrArg (goto (.io .io4)) (ite_withPause rfl rfl)
  | io0 | io1a | io1b | io1c | io1d | io2a | io2b | io2c | io3a1 | io3a2 | io3a3 | io4 =>
    simp [ioLabel]

theorem memLabel_withPause (l : MemLabel) :
    memLabel l (withPause p s) = withPause p (memLabel l s) := by
  cases l with
  | m2 => exact ite_withPause rfl (by rw [← leaveHandler_withPause]; rfl)
  | m4 => rfl
  | m0 | m1a | m1b | m1c | m1d | m1e | m3a | m3b | m3c | m3d | m5a | m5b | m5c | m5d =>
    simp [memLabel]

theorem ioStep_withPause : ioStep (withPause p s) = withPause p (ioStep s) := by
  simp only [ioStep, withPause_sequencer]
  split
  · exact ioLabel_withPause p s _
  all_goals rfl

theorem memStep_withPause : memStep (withPause p s) = withPause p (memStep s) := by
  simp only [memStep, withPause_sequencer]
  split
  · exact memLabel_withPause p s _
  all_goals rfl

theorem ioSteps_withPause (n : Nat) :
    ioSteps n (withPause p s) = withPause p (ioSteps n s) := by
  induction n generalizing s with
  | zero => rfl
  | succ n ih => rw [ioSteps, ioStep_withPause, ih, ioSteps]

theorem memSteps_withPause (n : Nat) :
    memSteps n (withPause p s) = withPause p (memSteps n s) := by
  induction n generalizing s with
  | zero => rfl
  | succ n ih => rw [memSteps, memStep_withPause, ih, memSteps]

theorem ioToTest_withPause : ioToTest (withPause p s) = withPause p (ioToTest s) := by
  rw [ioToTest, enterHandler_withPause, ioSteps_withPause, ioToTest]

theorem memToCheck_withPause : memToCheck (withPause p s) = withPause p (memToCheck s) := by
  rw [memToCheck, enterHandler_withPause, memSteps_withPause, memToCheck]

/-- A whole run has the same outcome, hence the same steps. -/
theorem ioRun_withPause (o : IoOutcome) :
    ioRun o (withPause p s) = withPause p (ioRun o s) := by
  have hout (u : State) : ioOutcome (withPause p u) = ioOutcome u := rfl
  simp only [ioRun, withPause_sequencer, withPause_edge, ioToTest_withPause, hout]
  split
  · rfl
  · rfl
  · exact ite_withPause (ioSteps_withPause p _ 6) rfl

/-- As `ioRun_withPause`, for the memory handler. -/
theorem memRun_withPause (o : MemOutcome) :
    memRun o (withPause p s) = withPause p (memRun o s) := by
  have hout (u : State) : memOutcome (withPause p u) = memOutcome u := rfl
  simp only [memRun, withPause_sequencer, withPause_edge, memToCheck_withPause, hout]
  split
  · rfl
  · rfl
  · exact ite_withPause (memSteps_withPause p _ 10) rfl

end shared

/-! ### No operation of an interrupt is gated by the pause protocol (R159, R185) -/

/-- The operations of the interrupt mechanism and of the handlers (R75, R163, R166, R170). -/
def InterruptOp (i : Instr) : Prop :=
  i = .dispatch ∨ i = .iocyc ∨ i = .memcyc ∨ i = .iret ∨ (∃ m, i = .edgeIo m) ∨ i = .edgeMem ∨
    (∃ w c, i = .memrd w c) ∨ (∃ w c, i = .memAbortRdInactive w c) ∨
    (∃ r w c, i = .memAbortMreqInactive r w c) ∨ (∃ m r, i = .iowrMem m r) ∨
    (∃ m r, i = .iowrCon m r) ∨ ∃ m r c, i = .ioNowr m r c

section answers
variable {s t : State} {i : Instr} (p : PauseFlags)

/-- What `IOCYC` answers does not depend on the pause flags. -/
theorem exec_iocyc_withPause (h : exec .iocyc s = .next t) :
    exec .iocyc (withPause p s) = .next (withPause p t) := by
  simp only [exec, execIocyc, withPause_sequencer] at h ⊢
  cases hq : s.sequencer <;> simp only [hq] at h ⊢ <;> cases h
  case idle => exact congrArg Host.Outcome.next (ite_withPause (enterHandler_withPause p s .io) rfl)
  case io l => rw [ioLabel_withPause]
  case mem => rfl

/-- What `MEMCYC` answers does not depend on the pause flags. -/
theorem exec_memcyc_withPause (h : exec .memcyc s = .next t) :
    exec .memcyc (withPause p s) = .next (withPause p t) := by
  simp only [exec, execMemcyc, withPause_sequencer] at h ⊢
  cases hq : s.sequencer <;> simp only [hq] at h ⊢ <;> cases h
  case idle => exact congrArg Host.Outcome.next (ite_withPause (enterHandler_withPause p s .mem) rfl)
  case io => rfl
  case mem l => rw [memLabel_withPause]

/-- What `EDGE_IO` answers does not depend on the pause flags. -/
theorem exec_edgeIo_withPause (m : Bool) (h : exec (.edgeIo m) s = .next t) :
    exec (.edgeIo m) (withPause p s) = .next (withPause p t) := by
  cases h
  cases m with
  | false => exact congrArg Host.Outcome.next (observeIorq_withPause p s)
  | true => simp [exec, execEdgeIo]

namespace InterruptOp

/-- What an interrupt's operation answers does not depend on the pause flags. -/
theorem exec_withPause (hi : InterruptOp i) (h : exec i s = .next t) :
    exec i (withPause p s) = .next (withPause p t) := by
  rcases hi with rfl | rfl | rfl | rfl | ⟨m, rfl⟩ | rfl | ⟨_, _, rfl⟩ | ⟨_, _, rfl⟩ | ⟨_, _, _, rfl⟩ |
    ⟨_, _, rfl⟩ | ⟨_, _, rfl⟩ | ⟨_, _, _, rfl⟩
  · cases h; exact congrArg Host.Outcome.next (dispatch_withPause p s)
  · exact exec_iocyc_withPause p h
  · exact exec_memcyc_withPause p h
  · cases h; exact congrArg Host.Outcome.next (leaveHandler_withPause p s)
  · exact exec_edgeIo_withPause p m h
  · cases h; exact congrArg Host.Outcome.next (observeMreq_withPause p s)
  iterate 3 (cases h; exact congrArg Host.Outcome.next (memRun_withPause p s _))
  iterate 3 (cases h; exact congrArg Host.Outcome.next (ioRun_withPause p s _))

/-- No operation of an interrupt is one of the four that write a pause flag (R34, R35). -/
theorem pause_eq (hi : InterruptOp i) (h : exec i s = .next t) : t.pause = s.pause := by
  have hreq : .req ∉ writes i := fun hw => by
    rcases writer_of_req hw with rfl | rfl <;> simp [InterruptOp] at hi
  have hack : .ack ∉ writes i := fun hw => by
    rcases writer_of_ack hw with rfl | rfl <;> simp [InterruptOp] at hi
  exact (PauseFlags.mk.injEq ..).mpr ⟨exec_same h hreq, exec_same h hack⟩

end InterruptOp

end answers

/-- Settles O33: the shared operations, the labels, and by induction the whole runs commute with a
change of the pause flags; that the flags are kept is read off the footprint table. -/
theorem pauseDoesNotGateTheHandlers : Obligations.PauseDoesNotGateTheHandlers := by
  unfold Obligations.PauseDoesNotGateTheHandlers
  intro s t p i hi h
  replace hi : InterruptOp i := hi
  exact ⟨hi.pause_eq h, hi.exec_withPause p h⟩

/-! ### The operations of the handshake (R153 to R158) -/

section handshake
variable {s : State}

/-- BUSIDLE performs the operation at which its loop stands, while no handler runs (R156). -/
theorem idleRow_at {l : IdleLabel} {act : State → State} (hq : s.sequencer = .idle)
    (hl : s.idle = l) : idleRow s l act = .next (act s) := by
  simp [idleRow, hq, hl]

/-- `PREQ` between operations: refused while a request is outstanding (R153). -/
theorem exec_preq (ha : s.host.activity = .between) : exec .preq s =
    if s.pause.req then .refused .requestOutstanding
    else .next { s with pause.req := true, book.hist := s.book.hist ++ [.host .preq] } := by
  simp only [exec, execPreq, whenFree_between ha]
  rfl

/-- `PREL` between operations (R155). -/
theorem exec_prel (ha : s.host.activity = .between) : exec .prel s =
    .next { s with pause.req := false, book.hist := s.book.hist ++ [.host .prel] } := by
  simp only [exec, execPrel, whenFree_between ha]
  rfl

/-- `PWAIT` between operations passes, or the UI stands at it from now on (R154; log 31). -/
theorem exec_pwait_between (ha : s.host.activity = .between) : exec .pwait s =
    .next (if s.pause.ack then beginHost .pwait s
      else setActivity .waitingAck (beginHost .pwait s)) := by
  simp [exec, execPwait, ha]

/-- `PWAIT` where the UI stands at it reads the flag again (R154, R183). -/
theorem exec_pwait_waiting (ha : s.host.activity = .waitingAck) : exec .pwait s =
    .next (if s.pause.ack then setActivity .between s else s) := by
  simp [exec, execPwait, ha]

/-- `IPOLL` goes on to IACK on a request, else polls again (R156). -/
theorem exec_ipoll (hq : s.sequencer = .idle) (hl : s.idle = .ipoll) : exec .ipoll s =
    .next { s with idle := if s.pause.req then .iack else .ipoll } := by
  simp only [exec, execIpoll, idleRow_at hq hl]

/-- `IACK` acknowledges (R157). -/
theorem exec_iack (hq : s.sequencer = .idle) (hl : s.idle = .iack) : exec .iack s =
    .next { s with pause.ack := true, idle := .ispin } := by
  simp only [exec, execIack, idleRow_at hq hl]

/-- `ISPIN` repeats while the request stands, else goes on to IRESUME (R158). -/
theorem exec_ispin (hq : s.sequencer = .idle) (hl : s.idle = .ispin) : exec .ispin s =
    .next { s with idle := if s.pause.req then .ispin else .iresume } := by
  simp only [exec, execIspin, idleRow_at hq hl]

/-- `IRESUME` withdraws the acknowledgment (R158). -/
theorem exec_iresume (hq : s.sequencer = .idle) (hl : s.idle = .iresume) : exec .iresume s =
    .next { s with pause.ack := false, idle := .ipoll } := by
  simp only [exec, execIresume, idleRow_at hq hl]

end handshake

/-- Settles O55: each operation by its equation where its agent stands, at each value of the flag it
reads. -/
theorem pauseOperations : Obligations.PauseOperations := by
  unfold Obligations.PauseOperations
  refine ⟨fun s ha => ⟨fun hr => ?preq, fun hr => ?refused, fun hk => ?pass, fun hk => ?wait,
      exec_prel ha⟩,
    fun s ha => ⟨fun hk => ?passAgain, fun hk => ?waitOn⟩,
    fun s hq => ⟨fun hl hr => ?request, fun hl hr => ?noRequest, exec_iack hq,
      fun hl hr => ?spin, fun hl hr => ?release, exec_iresume hq⟩⟩
  case preq => rw [exec_preq ha, hr]; rfl
  case refused => rw [exec_preq ha, hr]; rfl
  case pass => rw [exec_pwait_between ha, hk]; rfl
  case wait => rw [exec_pwait_between ha, hk]; rfl
  case passAgain => rw [exec_pwait_waiting ha, hk]; rfl
  case waitOn => rw [exec_pwait_waiting ha, hk]; rfl
  case request => rw [exec_ipoll hq hl, hr]; rfl
  case noRequest => simp [exec_ipoll hq hl, hr, ← hl]
  case spin => simp [exec_ispin hq hl, hr, ← hl]
  case release => rw [exec_ispin hq hl, hr]; rfl

end Sys2Proof.Machine
end

section
/-! PROOFS. The interrupt mechanism (60_exceptions.md): the edge detector and the environment's turn,
dispatch, return, and what each agent's turn performs. -/

namespace Sys2Proof.Machine

/-! ### The edge detector (R163) -/

/-- The look at `IORQ_n`: the level is remembered; a fall sets the latch and is recorded. -/
theorem observeIorq_eq (s : State) : observeIorq s = { s with
    edge.pendIo := s.edge.pendIo || (s.edge.prevIorq == .high && s.env.iorqN == .low)
    edge.prevIorq := s.env.iorqN
    book.hist := s.book.hist ++
      if s.edge.prevIorq = .high ∧ s.env.iorqN = .low then [.edge .io] else [] } := by
  by_cases h : s.edge.prevIorq = .high ∧ s.env.iorqN = .low
  · simp [observeIorq, fell, h, emit]
  · have hfell : (s.edge.prevIorq == .high && s.env.iorqN == .low) = false := by simpa using h
    simp [observeIorq, fell, hfell, h]

/-- As `observeIorq_eq`, for `MREQ_n`. -/
theorem observeMreq_eq (s : State) : observeMreq s = { s with
    edge.pendMem := s.edge.pendMem || (s.edge.prevMreq == .high && s.env.mreqN == .low)
    edge.prevMreq := s.env.mreqN
    book.hist := s.book.hist ++
      if s.edge.prevMreq = .high ∧ s.env.mreqN = .low then [.edge .mem] else [] } := by
  by_cases h : s.edge.prevMreq = .high ∧ s.env.mreqN = .low
  · simp [observeMreq, fell, h, emit]
  · have hfell : (s.edge.prevMreq == .high && s.env.mreqN == .low) = false := by simpa using h
    simp [observeMreq, fell, hfell, h]

/-- The edge vector in which no line fell names no operation, and its step does nothing (R70). -/
theorem step_noEdge {s : State} {rest : List Turn}
    (h : s.book.script = .line [0x02, 0b00] :: rest) : step s = .next (setScript rest s) := by
  rw [step_line h]
  exact runLine_reject (r := .noEdge) rfl

/-- Settles O18: the equations of the detector's two looks, of which the word `0b11` is the sequence. -/
theorem edgeOperationsLatchFalls : Obligations.EdgeOperationsLatchFalls := by
  unfold Obligations.EdgeOperationsLatchFalls
  refine fun s => ⟨?edgeIo, ?edgeMem, ?both, fun rest => step_noEdge⟩
  case edgeIo => exact congrArg Host.Outcome.next (observeIorq_eq s)
  case edgeMem => exact congrArg Host.Outcome.next (observeMreq_eq s)
  case both =>
    rintro _ _ ⟨⟩ ⟨⟩
    rfl

/-! ### The environment's turn (R32, R163) -/

/-- An environment's turn sets its lines, and the detector looks at both of them. A contention it begins is
recorded first, then a fall of `MREQ_n`, then one of `IORQ_n` (logs 10, 14). -/
theorem envStep_eq {c : EnvChange} {s : State} {e : EnvInputs} (he : changedInputs c s.env = e) :
    envStep c s = { s with
      env := e
      edge := { pendIo := s.edge.pendIo || (s.edge.prevIorq == .high && e.iorqN == .low)
                pendMem := s.edge.pendMem || (s.edge.prevMreq == .high && e.mreqN == .low)
                prevIorq := e.iorqN, prevMreq := e.mreqN }
      book.hist := s.book.hist ++
        ((if s.arb.mux = .dataOut ∧ s.arb.shMode = .output ∧ s.env.dcpuDrv = false ∧
            e.dcpuDrv = true then [.contention] else []) ++
          (if s.edge.prevMreq = .high ∧ e.mreqN = .low then [.edge .mem] else []) ++
          if s.edge.prevIorq = .high ∧ e.iorqN = .low then [.edge .io] else []) } := by
  have hbegins : contended { s with env := e } = true ∧ ¬contended s = true ↔
      s.arb.mux = .dataOut ∧ s.arb.shMode = .output ∧ s.env.dcpuDrv = false ∧ e.dcpuDrv = true := by
    rw [contended_iff, contended_iff, ← Bool.not_eq_true]
    tauto
  rw [envStep, he, noteContention_eq hbegins, observeMreq_eq, observeIorq_eq]
  simp

/-- Each of the three events an environment's turn may record is recorded in its own case. -/
theorem mem_turnEvents (P Q R : Prop) [Decidable P] [Decidable Q] [Decidable R] :
    let h : List Event := (if P then [Event.contention] else []) ++
      (if Q then [Event.edge .mem] else []) ++ if R then [Event.edge .io] else []
    (Event.edge .io ∈ h ↔ R) ∧ (Event.edge .mem ∈ h ↔ Q) ∧ (Event.contention ∈ h ↔ P) ∧
      h.length ≤ 3 := by
  refine ⟨by simp, by simp, by simp, ?_⟩
  split_ifs <;> simp

/-- Settles O9: the equation of the turn, whose three events are each recorded in its own case. -/
theorem environmentTurnLatchesFallingEdges : Obligations.EnvironmentTurnLatchesFallingEdges := by
  unfold Obligations.EnvironmentTurnLatchesFallingEdges
  intro s c rest hs
  have hstep : step s = .next (envStep c (setScript rest s)) := by simp [step, hs]
  rw [envStep_eq rfl] at hstep
  exact ⟨_, _, hstep, rfl, mem_turnEvents ..⟩

/-! ### Dispatch (R166 to R168) -/

section dispatch
variable {s : State} (hq : s.sequencer = .idle)
include hq

theorem dispatch_io (hio : s.edge.pendIo = true) (hmem : s.edge.pendMem = false) :
    dispatch s = enterHandler .io s := by
  simp [dispatch, hq, hio, hmem]

theorem dispatch_mem (hio : s.edge.pendIo = false) (hmem : s.edge.pendMem = true) :
    dispatch s = enterHandler .mem s := by
  simp [dispatch, hq, hio, hmem]

/-- With both latches set a free value chooses (R167; log 6). -/
theorem dispatch_both (hio : s.edge.pendIo = true) (hmem : s.edge.pendMem = true) :
    dispatch s = if Config.ioFirst s.book.draws then enterHandler .io (draw8 s).2
      else enterHandler .mem (draw8 s).2 := by
  simp only [dispatch, hq, hio, hmem]
  split_ifs <;> rfl

/-- Without a latch the engine waits. -/
theorem dispatch_none (hio : s.edge.pendIo = false) (hmem : s.edge.pendMem = false) :
    dispatch s = s := by
  simp [dispatch, hq, hio, hmem]

end dispatch

/-- Settles O19: one handler is entered, the only pending one or the one a free value names. -/
theorem dispatchEntersAPendingHandler : Obligations.DispatchEntersAPendingHandler := by
  unfold Obligations.DispatchEntersAPendingHandler
  refine fun s hq => ⟨fun hio hmem => ?io, fun hio hmem => ?mem, fun hio hmem => ?both⟩ <;>
    refine congrArg Host.Outcome.next ?_
  case io => exact dispatch_io hq hio hmem
  case mem => exact dispatch_mem hq hio hmem
  case both => exact dispatch_both hq hio hmem

/-! ### Return (R100, R170) -/

/-- The return from the I/O handler (R170). -/
theorem leaveHandler_io {s : State} {l : IoLabel} (h : s.sequencer = .io l) :
    leaveHandler s = { s with sequencer := .idle, book.hist := s.book.hist ++ [.exit .io] } := by
  simp [leaveHandler, h, emit]

/-- The lines are neutral wherever they fit and no handler runs (R100). -/
theorem LinesFit.atRest {s : State} (h : LinesFit s) (hq : s.sequencer = .idle) :
    s.arb.mux = .neutral ∧ s.arb.shMode = .input := by
  have hfit : arbiterFits s.sequencer s.arb = true := h
  rw [hq] at hfit
  simpa [arbiterFits, arbiterAtRest] using hfit

/-- The I/O handler ends at IO4 alone (R108). -/
theorem ioLabel_idle_iff (l : IoLabel) (s : State) :
    (ioLabel l s).sequencer = .idle ↔ l = .io4 := by
  cases l with
  | io3 => rw [ioLabel_io3]; split_ifs <;> simp
  | _ => simp [ioLabel]

/-- The memory handler ends at M5d, and at M2 with a line inactive (R111, R115). -/
theorem memLabel_idle_iff {l : MemLabel} {s : State} (hq : s.sequencer = .mem l) :
    (memLabel l s).sequencer = .idle ↔
      l = .m5d ∨ (l = .m2 ∧ (s.env.mreqN = .high ∨ s.env.rdN = .high)) := by
  cases l with
  | m2 =>
    rw [memLabel_m2 hq]
    cases s.env.mreqN <;> cases s.env.rdN <;> simp
  | _ => simp [memLabel]

/-- The I/O handler's return is on record. -/
theorem ioLabel_exit_mem {l : IoLabel} {s : State} (hq : s.sequencer = .io l)
    (h : (ioLabel l s).sequencer = .idle) : .exit .io ∈ (ioLabel l s).book.hist := by
  obtain rfl := (ioLabel_idle_iff l s).1 h
  simp [ioLabel_io4 hq]

/-- The memory handler's return is on record. -/
theorem memLabel_exit_mem {l : MemLabel} {s : State} (hq : s.sequencer = .mem l)
    (h : (memLabel l s).sequencer = .idle) : .exit .mem ∈ (memLabel l s).book.hist := by
  rcases (memLabel_idle_iff hq).1 h with rfl | ⟨rfl, hl⟩
  · rw [memLabel, leaveHandler_mem (s := releaseLines s) hq]
    simp
  · have hinactive : ¬(s.env.mreqN = .low ∧ s.env.rdN = .low) := by
      rcases hl with hl | hl <;> simp [hl]
    rw [memLabel_m2 hq, if_neg hinactive]
    simp

/-- Settles O21: a handler's step returns at its own exits, and every label keeps the lines as the
sequencer's next place wants them. -/
theorem returnAtFixedExitsLeavesLinesNeutral : Obligations.ReturnAtFixedExitsLeavesLinesNeutral := by
  unfold Obligations.ReturnAtFixedExitsLeavesLinesNeutral
  refine ⟨fun s l hq => ⟨?iretIo, ioLabel l s, exec_iocyc_of_label hq, ioLabel_idle_iff l s,
      ioLabel_exit_mem hq, fun hfit => (linesFit_ioLabel hq hfit).atRest⟩,
    fun s l hq => ⟨?iretMem, memLabel l s, exec_memcyc_of_label hq, memLabel_idle_iff hq,
      memLabel_exit_mem hq, fun hfit => (linesFit_memLabel hq hfit).atRest⟩⟩
  case iretIo => exact congrArg Host.Outcome.next (leaveHandler_io hq)
  case iretMem => exact congrArg Host.Outcome.next (leaveHandler_mem hq)

/-! ### The frame of the four operations -/

/-- Of the registers an entry writes `kind` alone (R101). -/
theorem enterHandler_regs (h : Source) (s : State) :
    { (enterHandler h s).regs with kind := s.regs.kind } = s.regs := by
  cases h <;> rfl

theorem dispatch_regs (s : State) :
    { (dispatch s).regs with kind := s.regs.kind } = s.regs := by
  rcases dispatch_cases s with e | ⟨-, h, u, rfl | rfl, e⟩ <;> rw [e]
  · exact enterHandler_regs h u
  · exact enterHandler_regs h (draw8 s).2

section mechanism
variable {s t : State} {i : Instr}

/-- The detector writes its own levels and latches. -/
theorem touches_edgeOperation (hi : (∃ m, i = .edgeIo m) ∨ i = .edgeMem) (h : exec i s = .next t) :
    Touches [.pendIo, .pendMem, .prevIorq, .prevMreq, .hist] s t := by
  rcases hi with ⟨m, rfl⟩ | rfl <;> cases h
  · cases m with
    | false => exact (touches_observeIorq s).mono (by decide)
    | true => exact ((touches_observeMreq s).mono (by decide)).then (touches_observeIorq _) (by decide)
  · exact (touches_observeMreq s).mono (by decide)

/-- The operations of the detector, of dispatch and of return (R163, R166, R170). -/
def MechanismOp (i : Instr) : Prop :=
  (∃ m, i = .edgeIo m) ∨ i = .edgeMem ∨ i = .dispatch ∨ i = .iret

/-- But for `DISPATCH` they write neither the registers nor the counter of free values. -/
theorem MechanismOp.touches_of_ne_dispatch (hi : MechanismOp i) (hn : i ≠ .dispatch)
    (h : exec i s = .next t) :
    Touches [.sequencer, .pendIo, .pendMem, .prevIorq, .prevMreq, .hist] s t := by
  rcases hi with hm | rfl | rfl | rfl
  · exact (touches_edgeOperation (.inl hm) h).mono (by decide)
  · exact (touches_edgeOperation (.inr rfl) h).mono (by decide)
  · exact absurd rfl hn
  · cases h
    exact (touches_leaveHandler s).mono (by decide)

/-- All that the four may write; of the registers it is `kind` alone. -/
theorem MechanismOp.frame (hi : MechanismOp i) (h : exec i s = .next t) :
    Touches [.regs, .sequencer, .pendIo, .pendMem, .prevIorq, .prevMreq, .hist, .draws] s t ∧
      { t.regs with kind := s.regs.kind } = s.regs := by
  by_cases hd : i = .dispatch
  · subst hd
    cases h
    exact ⟨(touches_dispatch s).mono (by decide), dispatch_regs s⟩
  · have ht := hi.touches_of_ne_dispatch hd h
    have hregs : t.regs = s.regs := ht .regs (by decide)
    exact ⟨ht.mono (by decide), by rw [hregs]⟩

end mechanism

/-- Settles O22: the components by the footprints of the four. -/
theorem interruptOperationFrame : Obligations.InterruptOperationFrame := by
  unfold Obligations.InterruptOperationFrame
  intro s t i hi h
  replace hi : MechanismOp i := hi
  obtain ⟨ht, hregs⟩ := hi.frame h
  refine ⟨ht .env (by decide), ht .arb (by decide), hregs, ht .curBank (by decide),
    ht .name (by decide), bankByte_congr (ht .bank (by decide)), ?scratch, ?pause,
    ht .idle (by decide), ?host, ht .script (by decide), ht .cpuLatch (by decide),
    fun hn => ?notDispatch, ?prev, ?iret, fun he => touches_edgeOperation he h .sequencer (by decide)⟩
  case scratch =>
    obtain ⟨hbytes, hfill⟩ := ht .scratch (by decide)
    exact scratchByte_congr hbytes hfill
  case pause =>
    exact (PauseFlags.mk.injEq ..).mpr ⟨ht .req (by decide), ht .ack (by decide)⟩
  case host =>
    exact (HostSide.mk.injEq ..).mpr ⟨ht .activity (by decide), ht .dec (by decide),
      ht .ret (by decide), ht .fileOut (by decide), ht .storage (by decide)⟩
  case notDispatch =>
    have ht := hi.touches_of_ne_dispatch hn h
    exact ⟨congrArg ScratchRegs.kind (ht .regs (by decide)), ht .draws (by decide)⟩
  case prev =>
    rintro (rfl | rfl) <;> cases h
    · exact ⟨touches_dispatch s .prevIorq (by decide), touches_dispatch s .prevMreq (by decide)⟩
    · exact ⟨congrArg EdgeDetector.prevIorq (leaveHandler_edge s),
        congrArg EdgeDetector.prevMreq (leaveHandler_edge s)⟩
  case iret =>
    rintro rfl
    cases h
    exact leaveHandler_edge s

/-! ### What each agent's turn performs (R166, R169, R171) -/

section agents
variable {s : State} {a : Agent} {rest : List Turn} (hs : s.book.script = .agent a :: rest)
include hs

/-- An agent's turn is taken off the script and run. -/
theorem step_agent : step s = runAgent a (setScript rest s) := by
  simp [step, hs]

/-- The turn of an agent whose control state selects an operation performs it. -/
theorem step_agent_performs {i : Instr} (h : agentNext a s = some i) :
    step s = exec i (setScript rest s) := by
  have hnext : agentNext a (setScript rest s) = some i := by cases a <;> exact h
  rw [step_agent hs, runAgent, hnext]

/-- The turn of an agent whose control state selects none passes. -/
theorem step_agent_waits (h : agentNext a s = none) : step s = .next (setScript rest s) := by
  have hnext : agentNext a (setScript rest s) = none := by cases a <;> exact h
  rw [step_agent hs, runAgent, hnext]

end agents

/-- With no turn written the step is the default agent's turn (log 7). -/
theorem step_default {s : State} (hs : s.book.script = []) :
    step s = step { s with book.script := [.agent (defaultAgent s)] } := by
  have hself : setScript [] { s with book.script := [.agent (defaultAgent s)] } = s := by
    change setScript [] s = s
    rw [← hs]
    rfl
  rw [step_agent (s := { s with book.script := [.agent (defaultAgent s)] }) rfl, hself, step, hs]

/-- IRQ moves when a handler runs or a latch is set (R166, R169). -/
theorem irqNext_isSome_iff (s : State) : (irqNext s).isSome = true ↔
    s.sequencer ≠ .idle ∨ s.edge.pendIo = true ∨ s.edge.pendMem = true := by
  unfold irqNext
  split <;> simp_all

/-- The UI cannot go on when it is between operations, or waits for an acknowledgment that has not
come (R183). -/
theorem uiCanMove_eq_false_iff (s : State) : uiCanMove s = false ↔
    s.host.activity = .between ∨ (s.host.activity = .waitingAck ∧ s.pause.ack = false) := by
  unfold uiCanMove
  split <;> simp_all

/-- Settles O8: the operation selected is read off the agent's control state; the default agent off
what can move. -/
theorem agentsFollowTheirControlState : Obligations.AgentsFollowTheirControlState := by
  unfold Obligations.AgentsFollowTheirControlState
  refine ⟨fun s rest hs => ?irq, fun s rest hs => ?busIdle, fun s rest hs => ?ui,
    fun s hs => ⟨defaultAgent s, step_default hs, ?default⟩⟩
  case irq =>
    have performs {i} (h : irqNext s = some i) := step_agent_performs hs h
    exact ⟨fun l hq => performs (by simp [irqNext, hq]), fun l hq => performs (by simp [irqNext, hq]),
      fun hq hp => performs (by simp [irqNext, hq, hp]),
      fun hq hio hmem => step_agent_waits hs (by simp [agentNext, irqNext, hq, hio, hmem])⟩
  case busIdle =>
    have performs {l i} (hq : s.sequencer = .idle) (hl : s.idle = l)
        (h : busIdleNext { s with sequencer := .idle, idle := l } = some i) :
        step s = exec i (setScript rest s) :=
      step_agent_performs hs (by rw [← hq, ← hl] at h; exact h)
    refine ⟨fun hbusy => step_agent_waits hs ?_, fun hq hl => performs hq hl rfl,
      fun hq hl => performs hq hl rfl, fun hq hl => performs hq hl rfl,
      fun hq hl => performs hq hl rfl⟩
    cases hq : s.sequencer with
    | idle => exact absurd hq hbusy
    | io | mem => simp [agentNext, busIdleNext, hq]
  case ui =>
    have performs {u i} (ha : s.host.activity = u)
        (h : uiNext (setActivity u s) = some i) : step s = exec i (setScript rest s) :=
      step_agent_performs hs (by rw [← ha] at h; exact h)
    refine ⟨fun ha => step_agent_waits hs (by simp [agentNext, uiNext, ha]),
      fun ha => performs ha rfl, fun b i ha => performs ha rfl, fun cs ha => performs ha rfl, ?_, ?_⟩
    · rintro (⟨cs, n, ha⟩ | ⟨b, i, ha⟩) <;> exact performs ha rfl
    · rintro (⟨b, i, ha⟩ | ⟨i, text, ha⟩) <;> exact performs ha rfl
  case default =>
    refine ⟨fun hp => if_pos ((irqNext_isSome_iff s).2 hp), fun hq hio hmem => ?_⟩
    have hirq : ¬(irqNext s).isSome = true := by
      rw [irqNext_isSome_iff]
      simp [hq, hio, hmem]
    rw [defaultAgent, if_neg hirq, ← uiCanMove_eq_false_iff]
    exact ⟨fun hu => by rw [hu]; rfl, fun hu => if_pos (by simpa using hu)⟩

end Sys2Proof.Machine
end

section
/-! PROOFS. Turns in which the operation named is not enabled (60_exceptions.md R169, R171; logs 12, 13,
29, 34): each passes and leaves the state as it is. -/

namespace Sys2Proof.Machine

/-! ### Dispatch, return and the handlers -/

section mechanism
variable {s : State}

/-- A dispatch while a handler runs, or with no latch set, is none (R166). -/
theorem dispatch_passes
    (h : s.sequencer ≠ .idle ∨ (s.edge.pendIo = false ∧ s.edge.pendMem = false)) :
    dispatch s = s := by
  by_cases hq : s.sequencer = .idle
  · obtain ⟨hio, hmem⟩ := h.resolve_left (not_not_intro hq)
    exact dispatch_none hq hio hmem
  · exact dispatch_of_busy hq

/-- Without a handler there is nothing to leave (R170). -/
theorem leaveHandler_of_idle (h : s.sequencer = .idle) : leaveHandler s = s := by
  simp [leaveHandler, h]

/-- The I/O handler neither runs nor is pending. -/
theorem execIocyc_passes
    (h : (∃ l, s.sequencer = .mem l) ∨ (s.sequencer = .idle ∧ s.edge.pendIo = false)) :
    execIocyc s = .next s := by
  rcases h with ⟨l, hq⟩ | ⟨hq, hp⟩
  · simp [execIocyc, hq]
  · simp [execIocyc, hq, hp]

/-- The memory handler neither runs nor is pending. -/
theorem execMemcyc_passes
    (h : (∃ l, s.sequencer = .io l) ∨ (s.sequencer = .idle ∧ s.edge.pendMem = false)) :
    execMemcyc s = .next s := by
  rcases h with ⟨l, hq⟩ | ⟨hq, hp⟩
  · simp [execMemcyc, hq]
  · simp [execMemcyc, hq, hp]

end mechanism

/-! ### Whole runs (R74, R75) -/

section runs
variable {s : State}

/-- A whole I/O run that could not be entered. -/
theorem ioRun_passes (o : IoOutcome) (h : s.sequencer ≠ .idle ∨ s.edge.pendIo = false) :
    ioRun o s = s := by
  rcases h with hq | hp
  · exact ioRun_of_busy o hq
  · unfold ioRun
    split <;> simp [hp]

/-- A whole memory run that could not be entered. -/
theorem memRun_passes (o : MemOutcome) (h : s.sequencer ≠ .idle ∨ s.edge.pendMem = false) :
    memRun o s = s := by
  rcases h with hq | hp
  · exact memRun_of_busy o hq
  · unfold memRun
    split <;> simp [hp]

/-- A whole I/O run that would end otherwise. -/
theorem ioRun_of_ne {o : IoOutcome} (h : ioOutcome (ioToTest s) ≠ o) : ioRun o s = s :=
  (ioRun_cases o s).resolve_right fun ⟨_, ho, _⟩ => h ho

/-- A whole memory run that would end otherwise. -/
theorem memRun_of_ne {o : MemOutcome} (h : memOutcome (memToCheck s) ≠ o) : memRun o s = s := by
  unfold memRun
  split <;> simp [h]

/-- The lines are held throughout a run (R86). -/
theorem memToCheck_env (s : State) : (memToCheck s).env = s.env :=
  memSteps_induct (P := fun u => u.env = s.env)
    (fun l u _ hu => Eq.trans (touches_memLabel l u .env (by decide)) hu) 6 rfl

/-- The re-check sees the lines the run is held with, whatever the mode of the shared lines. -/
theorem memOutcome_memToCheck_held (s : State) : memOutcome (memToCheck s) =
    if s.env.mreqN = .high then .abortMreqInactive
    else if s.env.rdN = .high then .abortRdInactive else .memrd := by
  simp only [memOutcome, lineActive, lineLevel, Config.activeLevel, memToCheck_env]
  cases s.env.mreqN <;> cases s.env.rdN <;> rfl

end runs

/-! ### The idle loop (R156, R171) -/

/-- BUSIDLE's operation out of turn, or preempted by a handler. -/
theorem idleRow_passes {s : State} {l : IdleLabel} {act : State → State}
    (h : s.sequencer ≠ .idle ∨ s.idle ≠ l) : idleRow s l act = .next s := by
  unfold idleRow
  split
  · rfl
  · rfl
  · next hq => rw [if_neg (h.resolve_left (not_not_intro hq))]

/-! ### Host operations while the UI is inside another one (log 34) -/

section host
variable {s : State} (ha : s.host.activity ≠ .between)
include ha

/-- The operations of one step are all guarded by the UI's place (R178). -/
theorem oneStep_passes {b v : Byte} {a : Addr} {n : Int} {text : List Byte} :
    exec (.read b a) s = .next s ∧ exec (.write b a v) s = .next s ∧ exec .curbank s = .next s ∧
      exec (.setbank n) s = .next s ∧ exec (.remap a) s = .next s ∧
      exec (.hexEncode text) s = .next s ∧ exec .preq s = .next s ∧ exec .prel s = .next s := by
  have free {act} : whenFree s act = .next s := whenFree_busy ha
  simp only [exec, execRead, execWrite, execCurbank, execSetbank, execRemap, execHexEncode, execPreq,
    execPrel, free, and_self]

theorem execPwait_passes (hw : s.host.activity ≠ .waitingAck) : execPwait s = .next s := by
  unfold execPwait
  split
  · exact absurd ‹_› ha
  · exact absurd ‹_› hw
  all_goals rfl

/-- A `clear` under way goes on under its own bank's number alone. -/
theorem execClear_passes {bank : Byte}
    (hc : (∀ i, s.host.activity ≠ .clearing (bank.setWidth 3) i) ∨ 7 < bank.toNat) :
    execClear bank s = .next s := by
  unfold execClear
  split
  · exact absurd ‹_› ha
  · next b i hb =>
    refine if_neg ?_
    rintro rfl
    rcases hc with hc | hc
    · exact hc i (by simpa using hb)
    · have hlt := b.isLt
      rw [BitVec.toNat_setWidth] at hc
      omega
  all_goals rfl

theorem execHexDecode_passes {stream : List Byte}
    (hd : ∀ cs, s.host.activity ≠ .decoding cs) : execHexDecode stream s = .next s := by
  unfold execHexDecode
  split
  · exact absurd ‹_› ha
  · next cs hcs => exact absurd hcs (hd cs)
  all_goals rfl

theorem execLoad_passes {stream : List Byte} (hr : ∀ cs k, s.host.activity ≠ .reading cs k)
    (hl : ∀ b i, s.host.activity ≠ .loading b i) : execLoad stream s = .next s := by
  unfold execLoad
  split
  · exact absurd ‹_› ha
  · next cs k hcs => exact absurd hcs (hr cs k)
  · next b i hb => exact absurd hb (hl b i)
  all_goals rfl

theorem execSave_passes (hs : ∀ b i, s.host.activity ≠ .saving b i)
    (he : ∀ i text, s.host.activity ≠ .encoding i text) : execSave s = .next s := by
  unfold execSave
  split
  · exact absurd ‹_› ha
  · next b i hb => exact absurd hb (hs b i)
  · next i text ht => exact absurd ht (he i text)
  all_goals rfl

end host

/-! ### Characters (R131; log 29) -/

/-- A row of a character outside its states, after the end of a decode, or inside another operation. -/
theorem charRow_passes {s : State} {states : List PState} {act : State → Result}
    (h : s.host.activity ≠ .between ∨ s.host.dec.status ≠ .running ∨ s.host.dec.pstate ∉ states) :
    charRow s states act = .next s := by
  by_cases ha : s.host.activity = .between
  · rw [charRow, whenFree_between ha]
    refine if_neg fun hc => ?_
    rw [Bool.and_eq_true, decodeRunning_iff, List.contains_iff_mem] at hc
    obtain ⟨hr, hp⟩ := hc
    exact (h.resolve_left (not_not_intro ha)).elim (· hr) (· hp)
  · exact whenFree_busy ha

/-- Every character performs some row. -/
theorem exec_decodeChar_row (p : PState) (c : Byte) (s : State) :
    ∃ states act, exec (decodeChar p c) s = charRow s states act := by
  unfold decodeChar
  split
  case h_1 | h_4 | h_5 => split_ifs <;> exact ⟨_, _, rfl⟩
  case h_6 => exact ⟨_, _, execHexRow_normal c s⟩
  case h_7 => exact ⟨_, _, execHexRow_origin c s⟩
  case h_8 | h_9 => exact ⟨_, fun s => .next (raiseDecodeError s), rfl⟩
  all_goals exact ⟨_, _, rfl⟩

theorem exec_decodeChar_passes {s : State} (p : PState) (c : Byte)
    (h : s.host.activity ≠ .between ∨ s.host.dec.status ≠ .running) :
    exec (decodeChar p c) s = .next s := by
  obtain ⟨states, act, hrow⟩ := exec_decodeChar_row p c s
  rw [hrow]
  exact charRow_passes (h.imp_right Or.inl)

/-- Settles O20: each operation by the lemma on the turn it passes. -/
theorem turnsThatCannotActPass : Obligations.TurnsThatCannotActPass := by
  unfold Obligations.TurnsThatCannotActPass
  intro s
  have passes {u : State} (h : u = s) : (.next u : Result) = .next s :=
    congrArg Host.Outcome.next h
  have hio := ioOutcome_ioToTest s
  have hmem := memOutcome_memToCheck_held s
  have outside {p} {act : State → Result} (hp : s.host.dec.pstate ≠ p) :
      charRow s [p] act = .next s := charRow_passes (.inr (.inr (mt List.mem_singleton.1 hp)))
  refine ⟨fun h => passes (dispatch_passes h), execIocyc_passes, execMemcyc_passes,
    fun h m r c => ?ioUnserved, fun h r w c => ?memUnserved,
    fun m r c => ⟨fun hw => ?ioHigh, fun hw => ?ioLow, fun ha => ?console, fun ha => ?bank⟩,
    fun r w c => ⟨fun hm => ?mreqHigh, fun hm => ?mreqLow, fun hr => ?rdHigh, fun hr => ?rdLow⟩,
    fun hq => passes (leaveHandler_of_idle hq), fun h => ?ipoll, fun h => ?iack,
    fun h => ?ispin, fun h => ?iresume, fun ha b v a n text => ?host,
    fun hd p c => exec_decodeChar_passes p c (.inr hd), fun hp c => outside hp,
    fun hp d h c => ?normal, fun hp d h c => ?inOrigin⟩
  case ioUnserved =>
    exact ⟨passes (ioRun_passes _ h), passes (ioRun_passes _ h), passes (ioRun_passes _ h)⟩
  case memUnserved =>
    exact ⟨passes (memRun_passes _ h), passes (memRun_passes _ h), passes (memRun_passes _ h)⟩
  case ioHigh => constructor <;> exact passes (ioRun_of_ne (by simp [hio, hw]))
  case ioLow =>
    have hlow : s.env.iorqN ≠ .high := by simp [hw]
    exact passes (ioRun_of_ne (by rw [hio, if_neg hlow]; split_ifs <;> decide))
  case console => exact passes (ioRun_of_ne (by rw [hio, if_pos ha]; split_ifs <;> decide))
  case bank => exact passes (ioRun_of_ne (by rw [hio, if_neg ha]; split_ifs <;> decide))
  case mreqHigh => constructor <;> exact passes (memRun_of_ne (by simp [hmem, hm]))
  case mreqLow =>
    have hlow : s.env.mreqN ≠ .high := by simp [hm]
    exact passes (memRun_of_ne (by rw [hmem, if_neg hlow]; split_ifs <;> decide))
  case rdHigh => exact passes (memRun_of_ne (by rw [hmem, if_pos hr]; split_ifs <;> decide))
  case rdLow =>
    have hlow : s.env.rdN ≠ .high := by simp [hr]
    exact passes (memRun_of_ne (by rw [hmem, if_neg hlow]; split_ifs <;> decide))
  case ipoll | iack | ispin | iresume =>
    simp only [exec, execIpoll, execIack, execIspin, execIresume, idleRow_passes h]
  case host =>
    obtain ⟨hread, hwrite, hcurbank, hsetbank, hremap, hencode, hpreq, hprel⟩ := oneStep_passes ha
    exact ⟨hread, hwrite, hcurbank, hsetbank, hremap, hencode, hpreq, hprel, execPwait_passes ha,
      execClear_passes ha, execHexDecode_passes ha, execLoad_passes ha, execSave_passes ha,
      fun p c => exec_decodeChar_passes p c (.inl ha)⟩
  case normal =>
    simp only [exec, execChHexNormalDigit, execChHexNormalUpper, execChHexNormalLower,
      execChBadNormal, outside hp, and_self]
  case inOrigin =>
    simp only [exec, execChHexOriginDigit, execChHexOriginUpper, execChHexOriginLower,
      execChBadOrigin, outside hp, and_self]

end Sys2Proof.Machine
end

section
/-! PROOFS. Reading a line and writing it are inverse to each other (30_encoding.md R68 to R86; log 8 for
the form of a line): every operation's line is read back as the operation, and a line that is read is
the line of what it is read as. -/

namespace Sys2Proof.Machine

/-! ### An operation's line is read back -/

/-- The round trip of each operation, by its own lemma. -/
theorem roundTrip : ∀ i : Instr, Laws.RoundTrip.Statement i
  | .selpLowAddrIn => Laws.RoundTrip.selpLowAddrIn
  | .selpHighAddrIn => Laws.RoundTrip.selpHighAddrIn
  | .selpDataIn => Laws.RoundTrip.selpDataIn
  | .selpDataOut => Laws.RoundTrip.selpDataOut
  | .neut => Laws.RoundTrip.neut
  | .settle k => Laws.RoundTrip.settle k
  | .shin => Laws.RoundTrip.shin
  | .shout v => Laws.RoundTrip.shout v
  | .samp r => Laws.RoundTrip.samp r
  | .tst l => Laws.RoundTrip.tst l
  | .edgeIo fallMreq => Laws.RoundTrip.edgeIo fallMreq
  | .edgeMem => Laws.RoundTrip.edgeMem
  | .dispatch => Laws.RoundTrip.dispatch
  | .iret => Laws.RoundTrip.iret
  | .iocyc => Laws.RoundTrip.iocyc
  | .memcyc => Laws.RoundTrip.memcyc
  | .memrd w c => Laws.RoundTrip.memrd w c
  | .memAbortRdInactive w c => Laws.RoundTrip.memAbortRdInactive w c
  | .memAbortMreqInactive r w c => Laws.RoundTrip.memAbortMreqInactive r w c
  | .iowrMem m r => Laws.RoundTrip.iowrMem m r
  | .iowrCon m r => Laws.RoundTrip.iowrCon m r
  | .ioNowr m r c => Laws.RoundTrip.ioNowr m r c
  | .bankRead b a => Laws.RoundTrip.bankRead b a
  | .bankWrite b a v => Laws.RoundTrip.bankWrite b a v
  | .read bank addr => Laws.RoundTrip.read bank addr
  | .write bank addr v => Laws.RoundTrip.write bank addr v
  | .clear bank => Laws.RoundTrip.clear bank
  | .curbank => Laws.RoundTrip.curbank
  | .setbank n => Laws.RoundTrip.setbank n
  | .remap a => Laws.RoundTrip.remap a
  | .hexDecode stream => Laws.RoundTrip.hexDecode stream
  | .chLtLf => Laws.RoundTrip.chLtLf
  | .chLtCr => Laws.RoundTrip.chLtCr
  | .chHash => Laws.RoundTrip.chHash
  | .chOrgAt => Laws.RoundTrip.chOrgAt
  | .chOrgColon => Laws.RoundTrip.chOrgColon
  | .chSepSpace => Laws.RoundTrip.chSepSpace
  | .chSepTab => Laws.RoundTrip.chSepTab
  | .chHexNormalDigit d => Laws.RoundTrip.chHexNormalDigit d
  | .chHexNormalUpper h => Laws.RoundTrip.chHexNormalUpper h
  | .chHexNormalLower h => Laws.RoundTrip.chHexNormalLower h
  | .chHexOriginDigit d => Laws.RoundTrip.chHexOriginDigit d
  | .chHexOriginUpper h => Laws.RoundTrip.chHexOriginUpper h
  | .chHexOriginLower h => Laws.RoundTrip.chHexOriginLower h
  | .chBadNormal c => Laws.RoundTrip.chBadNormal c
  | .chBadOrigin c => Laws.RoundTrip.chBadOrigin c
  | .chAnyComment c => Laws.RoundTrip.chAnyComment c
  | .hexEncode buf => Laws.RoundTrip.hexEncode buf
  | .save => Laws.RoundTrip.save
  | .load stream => Laws.RoundTrip.load stream
  | .preq => Laws.RoundTrip.preq
  | .pwait => Laws.RoundTrip.pwait
  | .prel => Laws.RoundTrip.prel
  | .ipoll => Laws.RoundTrip.ipoll
  | .iack => Laws.RoundTrip.iack
  | .ispin => Laws.RoundTrip.ispin
  | .iresume => Laws.RoundTrip.iresume

/-- Settles O5: the round trip of each operation, in every parser state its row is for. -/
theorem decodeOfEncodeIsIdentity : Obligations.DecodeOfEncodeIsIdentity := by
  unfold Obligations.DecodeOfEncodeIsIdentity
  exact fun p i => roundTrip i p

/-! ### The spelling of an operation -/

/-- The line is the spelling of a well-formed operation that is read in parser state `p`. -/
def Spells (p : PState) (line : List Byte) (i : Instr) : Prop :=
  wellFormed i = true ∧ readIn p i = true ∧ encode i = line

theorem Spells.decode_eq {p : PState} {line : List Byte} {i : Instr} (h : Spells p line i) :
    decode p line = .ok i := by
  obtain ⟨hw, hr, rfl⟩ := h
  exact roundTrip i p hw hr

/-! ### The operand bytes of a line that decodes -/

section operands
variable {args : List Byte} {i j : Instr}

theorem decodePlain_eq_ok (h : decodePlain i args = .ok j) : args = [] ∧ i = j := by
  cases args with
  | nil => cases h; exact ⟨rfl, rfl⟩
  | cons b bs => cases h

theorem decodeByte_eq_ok {f : Byte → Decoded} (h : decodeByte f args = .ok i) :
    ∃ b, args = [b] ∧ f b = .ok i := by
  unfold decodeByte at h
  split at h
  · exact ⟨_, rfl, h⟩
  · cases h

/-- A word that is read by its number is the byte with that number. -/
theorem decodeNumber_eq_ok {f : Nat → Decoded} (h : decodeByte (fun b => f b.toNat) args = .ok i) :
    ∃ n, args = [BitVec.ofNat 8 n] ∧ f n = .ok i := by
  obtain ⟨b, rfl, hb⟩ := decodeByte_eq_ok h
  exact ⟨b.toNat, by simp, hb⟩

end operands

/-! ### Fields of an operand -/

theorem lowByte_addrOf (lo hi : Byte) : lowByte (addrOf lo hi) = lo :=
  BitVec.extractLsb'_append_eq_right

theorem highByte_addrOf (lo hi : Byte) : highByte (addrOf lo hi) = hi :=
  BitVec.extractLsb'_append_eq_left

/-- A byte that reads as a bank number is that number in a byte (R118, R119). -/
theorem decodeBankNumber_eq_ok {b : Byte} {f : BankNumber → Instr} {i : Instr}
    (h : decodeBankNumber b f = .ok i) : ∃ n : BankNumber, n.setWidth 8 = b ∧ f n = i := by
  unfold decodeBankNumber at h
  split_ifs at h with hb
  cases h
  refine ⟨b.setWidth 3, ?_, rfl⟩
  rw [Config.nBanks] at hb
  apply BitVec.eq_of_toNat_eq
  simp only [BitVec.toNat_setWidth]
  omega

/-- A byte below 32 is the `CYC` word of its bits (R74). -/
theorem cycWord_of_lt {b : Byte} (h : b.toNat < 32) :
    ∃ t m r w c, b = cycWord t m r w c :=
  ⟨b.getLsbD 4, b.getLsbD 3, b.getLsbD 2, b.getLsbD 1, b.getLsbD 0, by revert b; decide⟩

/-- A mask of the four lines is the mask of its set (R69). -/
theorem encodeLines_decodeLines {m : Byte} (h : m.toNat < 16) : encodeLines (decodeLines m) = m := by
  revert m; decide

theorem decodeLines_nonempty {m : Byte} (h : m.toNat < 16) (h0 : m ≠ 0) :
    (decodeLines m).nonempty = true := by
  revert m; decide

/-! ### Characters (R81, R131) -/

section classes
variable {c : Byte}

theorem charClass_eq_lt (h : charClass c = .lt) : c = 0x0A ∨ c = 0x0D := by
  by_contra hn
  obtain ⟨hlf, hcr⟩ := not_or.1 hn
  exact charClass_ne_lt hlf hcr h

theorem charClass_eq_hash (h : charClass c = .hash) : c = 0x23 := by
  unfold charClass at h
  split_ifs at h
  assumption

theorem charClass_eq_org (h : charClass c = .org) : c = 0x40 ∨ c = 0x3A := by
  unfold charClass at h
  split_ifs at h
  assumption

theorem charClass_eq_sep (h : charClass c = .sep) : c = 0x20 ∨ c = 0x09 := by
  unfold charClass at h
  split_ifs at h
  assumption

/-- A hex digit is the character of a decimal digit, of an upper-case or of a lower-case letter. -/
theorem charClass_eq_hex (h : charClass c = .hex) :
    (∃ d, digitOk d = true ∧ digitChar d = c) ∨ (∃ l, letterOk l = true ∧ upperChar l = c) ∨
      ∃ l, letterOk l = true ∧ lowerChar l = c := by
  unfold charClass at h
  split_ifs at h with _ _ _ _ hranges
  obtain ⟨hlo, hhi⟩ | ⟨hlo, hhi⟩ | ⟨hlo, hhi⟩ := hranges
  · obtain ⟨d, hd, hc, -⟩ := digitChar_of_range hlo hhi
    exact .inl ⟨d, hd, hc.symm⟩
  · obtain ⟨l, hl, hc, -⟩ := upperChar_of_range hlo hhi
    exact .inr (.inl ⟨l, hl, hc.symm⟩)
  · obtain ⟨l, hl, hc, -⟩ := lowerChar_of_range hlo hhi
    exact .inr (.inr ⟨l, hl, hc.symm⟩)

end classes

/-- Every character is that of a row for the parser state it is read in. -/
theorem exists_spells_char (p : PState) (c : Byte) : ∃ i, Spells p [0x04, c] i := by
  by_cases hlt : charClass c = .lt
  · obtain rfl | rfl := charClass_eq_lt hlt
    exacts [⟨.chLtLf, rfl, rfl, rfl⟩, ⟨.chLtCr, rfl, rfl, rfl⟩]
  by_cases hp : p = .inComment
  · subst hp
    exact ⟨.chAnyComment c, decide_eq_true hlt, rfl, rfl⟩
  have hout : (p != .inComment) = true := bne_iff_ne.2 hp
  cases hclass : charClass c with
  | lt => contradiction
  | hash =>
    obtain rfl := charClass_eq_hash hclass
    exact ⟨.chHash, rfl, hout, rfl⟩
  | org =>
    obtain rfl | rfl := charClass_eq_org hclass
    exacts [⟨.chOrgAt, rfl, hout, rfl⟩, ⟨.chOrgColon, rfl, hout, rfl⟩]
  | sep =>
    obtain rfl | rfl := charClass_eq_sep hclass
    exacts [⟨.chSepSpace, rfl, hout, rfl⟩, ⟨.chSepTab, rfl, hout, rfl⟩]
  | hex =>
    cases p with
    | inComment => contradiction
    | normal =>
      obtain ⟨d, hd, rfl⟩ | ⟨l, hl, rfl⟩ | ⟨l, hl, rfl⟩ := charClass_eq_hex hclass
      exacts [⟨.chHexNormalDigit d, hd, rfl, rfl⟩, ⟨.chHexNormalUpper l, hl, rfl, rfl⟩,
        ⟨.chHexNormalLower l, hl, rfl, rfl⟩]
    | inOrigin =>
      obtain ⟨d, hd, rfl⟩ | ⟨l, hl, rfl⟩ | ⟨l, hl, rfl⟩ := charClass_eq_hex hclass
      exacts [⟨.chHexOriginDigit d, hd, rfl, rfl⟩, ⟨.chHexOriginUpper l, hl, rfl, rfl⟩,
        ⟨.chHexOriginLower l, hl, rfl, rfl⟩]
  | bad =>
    cases p with
    | inComment => contradiction
    | normal => exact ⟨.chBadNormal c, decide_eq_true hclass, rfl, rfl⟩
    | inOrigin => exact ⟨.chBadOrigin c, decide_eq_true hclass, rfl, rfl⟩

/-! ### Each kind of line -/

section lines
variable {p : PState} {i : Instr}

/-- The row a character is that of is the row it is read as, since the row's line is read back. -/
theorem spells_char (p : PState) (c : Byte) : Spells p [0x04, c] (decodeChar p c) := by
  obtain ⟨i, hi⟩ := exists_spells_char p c
  have hread : Decoded.ok (decodeChar p c) = .ok i := hi.decode_eq
  cases hread
  exact hi

theorem spells_muxctl {n : Nat} (h : decodeMuxctl n = .ok i) :
    Spells p [0x01, BitVec.ofNat 8 n] i := by
  unfold decodeMuxctl at h
  split_ifs at h
  all_goals cases h; subst n; exact ⟨rfl, rfl, rfl⟩

theorem spells_trig {n : Nat} (h : decodeTrig n = .ok i) : Spells p [0x02, BitVec.ofNat 8 n] i := by
  unfold decodeTrig at h
  split_ifs at h
  all_goals cases h; subst n; exact ⟨rfl, rfl, rfl⟩

theorem spells_cyc {b : Byte} (h : decodeCyc b = .ok i) : Spells p [0x03, b] i := by
  have hb : b.toNat < 32 := by
    by_contra hge
    rw [decodeCyc, if_pos (not_lt.1 hge)] at h
    cases h
  obtain ⟨t, m, r, w, c, rfl⟩ := cycWord_of_lt hb
  rw [Laws.decodeCyc_word] at h
  split at h <;> cases h <;> exact ⟨rfl, rfl, rfl⟩

theorem spells_settle {n : Nat} (h : decodeSettle n = .ok i) :
    Spells p [0x10, BitVec.ofNat 8 n] i := by
  unfold decodeSettle at h
  split at h <;> cases h <;> exact ⟨rfl, rfl, rfl⟩

theorem spells_samp {n : Nat} (h : decodeSamp n = .ok i) : Spells p [0x13, BitVec.ofNat 8 n] i := by
  unfold decodeSamp at h
  split at h <;> cases h <;> exact ⟨rfl, rfl, rfl⟩

theorem spells_tst {m : Byte} (h : decodeTst m = .ok i) : Spells p [0x14, m] i := by
  unfold decodeTst at h
  split_ifs at h with hm
  obtain ⟨hlt, h0⟩ := not_or.1 hm
  cases h
  have hlines : encodeLines (decodeLines m) = m := encodeLines_decodeLines (not_le.1 hlt)
  exact ⟨decodeLines_nonempty (not_le.1 hlt) h0, rfl, by rw [encode, hlines]⟩

theorem spells_bankRead {args : List Byte} (h : decodeBankRead args = .ok i) :
    Spells p (0x30 :: args) i := by
  unfold decodeBankRead at h
  split at h
  · obtain ⟨n, rfl, rfl⟩ := decodeBankNumber_eq_ok h
    exact ⟨rfl, rfl, by simp only [encode, lowByte_addrOf, highByte_addrOf]⟩
  · cases h

theorem spells_bankWrite {args : List Byte} (h : decodeBankWrite args = .ok i) :
    Spells p (0x31 :: args) i := by
  unfold decodeBankWrite at h
  split at h
  · obtain ⟨n, rfl, rfl⟩ := decodeBankNumber_eq_ok h
    exact ⟨rfl, rfl, by simp only [encode, lowByte_addrOf, highByte_addrOf]⟩
  · cases h

theorem spells_read {args : List Byte} (h : decodeRead args = .ok i) :
    Spells p (0x32 :: args) i := by
  unfold decodeRead at h
  split at h <;> cases h
  exact ⟨rfl, rfl, by simp only [encode, lowByte_addrOf, highByte_addrOf]⟩

theorem spells_write {args : List Byte} (h : decodeWrite args = .ok i) :
    Spells p (0x33 :: args) i := by
  unfold decodeWrite at h
  split at h <;> cases h
  exact ⟨rfl, rfl, by simp only [encode, lowByte_addrOf, highByte_addrOf]⟩

theorem spells_remap {args : List Byte} (h : decodeRemap args = .ok i) :
    Spells p (0x37 :: args) i := by
  unfold decodeRemap at h
  split at h <;> cases h
  exact ⟨rfl, rfl, by simp only [encode, lowByte_addrOf, highByte_addrOf]⟩

/-- Only the digits the encoder writes are read, and no magnitude 0 under the minus sign, so that a
number has one spelling. -/
theorem spells_setbank {args : List Byte} (h : decodeSetbank args = .ok i) :
    Spells p (0x36 :: args) i := by
  cases args with
  | nil => cases h
  | cons sign mag =>
    simp only [decodeSetbank] at h
    split_ifs at h with hmag hplus hminus <;> cases h <;> refine ⟨rfl, rfl, ?_⟩
    · simp [encode, encodeSetbank, not_not.1 hmag, hplus]
    · obtain ⟨rfl, hpos⟩ := hminus
      simp [encode, encodeSetbank, not_not.1 hmag, Nat.pos_of_ne_zero hpos]

theorem spells_hexEncode {buf : List Byte} (h : decodeEncode buf = .ok i) :
    Spells p (0x39 :: buf) i := by
  unfold decodeEncode at h
  split_ifs at h with hlen
  cases h
  exact ⟨decide_eq_true hlen, rfl, rfl⟩

/-- A line that decodes is the spelling of what it decodes to, by the rows of `decodeOp`. -/
theorem spells_of_decodeOp {sel : Nat} {args : List Byte} (h : decodeOp p sel args = .ok i) :
    Spells p (BitVec.ofNat 8 sel :: args) i := by
  unfold decodeOp at h
  split at h
  -- the words of the hardware's formats, and the numbers of settle points and registers
  case h_1 => obtain ⟨n, rfl, hn⟩ := decodeNumber_eq_ok h; exact spells_muxctl hn
  case h_2 => obtain ⟨n, rfl, hn⟩ := decodeNumber_eq_ok h; exact spells_trig hn
  case h_3 => obtain ⟨b, rfl, hb⟩ := decodeByte_eq_ok h; exact spells_cyc hb
  case h_4 => obtain ⟨c, rfl, hc⟩ := decodeByte_eq_ok h; cases hc; exact spells_char p c
  case h_5 => obtain ⟨n, rfl, hn⟩ := decodeNumber_eq_ok h; exact spells_settle hn
  case h_8 => obtain ⟨n, rfl, hn⟩ := decodeNumber_eq_ok h; exact spells_samp hn
  case h_9 => obtain ⟨m, rfl, hm⟩ := decodeByte_eq_ok h; exact spells_tst hm
  -- one byte, which is the operand itself: `SHOUT` and `clear`
  case h_7 | h_18 =>
    obtain ⟨v, rfl, hv⟩ := decodeByte_eq_ok h
    cases hv
    exact ⟨rfl, rfl, rfl⟩
  -- calls with an address, a number or a buffer
  case h_14 => exact spells_bankRead h
  case h_15 => exact spells_bankWrite h
  case h_16 => exact spells_read h
  case h_17 => exact spells_write h
  case h_20 => exact spells_setbank h
  case h_21 => exact spells_remap h
  case h_23 => exact spells_hexEncode h
  -- a stream, which is the rest of the line: `decode` and `load`
  case h_22 | h_25 => cases h; exact ⟨rfl, rfl, rfl⟩
  -- no row has this selector
  case h_33 => cases h
  -- the operations without operands
  all_goals
    obtain ⟨rfl, rfl⟩ := decodePlain_eq_ok h
    exact ⟨rfl, rfl, rfl⟩

theorem spells_of_decode {bytes : List Byte} (h : decode p bytes = .ok i) : Spells p bytes i := by
  cases bytes with
  | nil => cases h
  | cons sel args => simpa using spells_of_decodeOp h

end lines

/-- Settles O6: the line is the spelling of what it decodes to. -/
theorem encodeOfDecodeIsIdentity : Obligations.EncodeOfDecodeIsIdentity := by
  unfold Obligations.EncodeOfDecodeIsIdentity
  exact fun p bytes i h => spells_of_decode h

end Sys2Proof.Machine
end
